-- ==== Sys2Proof/Word.lean ====
section
/-! DEFINITION. The words of the block and the names of its two small enumerated registers. -/

namespace Sys2Proof

/-- The input unit and the cell of the frame buffer: one 8-bit byte, bit 7 the most significant
(30_encoding.md R50, 20_memory.md R36). -/
abbrev Byte := BitVec 8

/-- A nibble of a byte: the marker nibble or the length field (30_encoding.md R52). -/
abbrev Nibble := BitVec 4

/-- The states of the register PHASE (10_state.md R19). The pattern `11` is never written, so the type
leaves it out (93_implementation_defined.md I8, log entry 7). -/
inductive Phase where
  /-- AWAIT_SYNC, pattern `00`: no SYNC byte has been seen since ATTACH. -/
  | awaitSync
  /-- IN_FRAME, pattern `01`: a frame is being accumulated. -/
  | inFrame
  /-- IDLE, pattern `10`: a SYNC byte has been seen but no frame is active. -/
  | idle
deriving DecidableEq, Repr, Inhabited

/-- The values of the register LINK (10_state.md R26). -/
inductive Link where
  /-- Value 0. -/
  | detached
  /-- Value 1. -/
  | attached
deriving DecidableEq, Repr, Inhabited

end Sys2Proof
end

