-- ==== Sys2Proof/Config.lean ====
section
/-! DEFINITION. What is fixed when the block is built (00_scope.md R5 to R7), and the free values: the
constants without a body that stand for every value the spec leaves unspecified. -/

namespace Sys2Proof.Config

/-- The high nibble of a sync marker (00_scope.md R5). -/
def MARKER : Nibble := 0xF#4

/-- The most channels a Reading can carry (00_scope.md R6). -/
def MAX_CH : Nat := 6

/-- The build parameters a model may vary: the number of cells of the frame buffer (00_scope.md R7). -/
structure Params where
  bufCap : Nat
deriving DecidableEq, Repr

/-- The block of this spec: `BUF_CAP = 8` (00_scope.md R7, log entry 6). -/
def params : Params := ⟨8⟩

/-- PHASE after a DETACH or at power-up (10_state.md R26, 42_link_interface.md R94; log entry 4). -/
opaque freePhase : Nat → Phase

/-- LEN after a DETACH or at power-up (10_state.md R26, 42_link_interface.md R94; log entry 4). -/
opaque freeLen : Nat → BitVec 5

/-- IDX after a DETACH or at power-up (10_state.md R26, 42_link_interface.md R94; log entry 4). -/
opaque freeIdx : Nat → BitVec 4

/-- RD_VALID at power-up (70_reset_and_hazards.md R121; log entry 4). -/
opaque freeValid : Nat → Bool

/-- RD_COUNT after an ATTACH, after a DETACH or at power-up (10_state.md R28; log entry 4). -/
opaque freeCount : Nat → BitVec 3

/-- RD_CH[k] after an ATTACH, after a DETACH or at power-up, and for `k > n` after a completion
(10_state.md R22 and R28; log entries 4 and 5). The arguments are the draw and `k`. -/
opaque freeChannel : Nat → Nat → Byte

/-- A cell of BUF that nothing has written yet (10_state.md R27 and R28; log entry 3). The argument is the
index. -/
opaque freeCell : Nat → Byte

end Sys2Proof.Config
end

