-- ==== Sys2Proof/Syntax.lean ====
section
/-! DEFINITION. The instructions: the bytes of the input stream, one constructor per row of
spec/opcode_table.json (30_encoding.md R63). -/

namespace Sys2Proof

/-- A byte of the input stream by its row of the opcode table. A DATA constructor carries the whole byte,
because "`d` is always the whole byte" (30_encoding.md R63); `Instr.wellFormed` says which bytes its row
admits (log entry 14). -/
inductive Instr where
  /-- Row SYNC, pattern `1111LLLL`: the length field `L = b[3:0]`. -/
  | sync (L : Nibble)
  /-- Row DATA, pattern `0ddddddd`. -/
  | data0 (d : Byte)
  /-- Row DATA, pattern `10dddddd`. -/
  | data10 (d : Byte)
  /-- Row DATA, pattern `110ddddd`. -/
  | data110 (d : Byte)
  /-- Row DATA, pattern `1110dddd`. -/
  | data1110 (d : Byte)
deriving DecidableEq, Repr

/-- The pseudo-operations of the stream notation (30_encoding.md R62). Operands are numbers as written; a
number outside its range is refused (`Pseudo.wellFormed`). -/
inductive Pseudo where
  | sync (L : Nat)
  | data (v : Nat)
  | frame (btn : Nat) (channels : List Nat)
  | noise (vs : List Nat)
deriving DecidableEq, Repr

end Sys2Proof
end

