-- ==== Sys2Proof/WellFormed.lean ====
section
/-! DEFINITION. The checks: which terms of `Instr` are bytes of their row, which operands a
pseudo-operation admits, and which build parameters are accepted. -/

namespace Sys2Proof

/-- The instruction is a byte of its row: match and mask as in 30_encoding.md R63. -/
def Instr.wellFormed : Instr → Bool
  | .sync _ => true
  | .data0 d => d &&& 0x80#8 == 0x00#8
  | .data10 d => d &&& 0xC0#8 == 0x80#8
  | .data110 d => d &&& 0xE0#8 == 0xC0#8
  | .data1110 d => d &&& 0xF0#8 == 0xE0#8

/-- `v` is a DATA byte value, 0x00..0xEF (30_encoding.md R53, R62). -/
def isDataValue (v : Nat) : Bool := v ≤ 0xEF

/-- The operands are in the ranges of 30_encoding.md R62: L in 0..15, values in 0x00..0xEF, 0..13 channels. -/
def Pseudo.wellFormed : Pseudo → Bool
  | .sync L => L ≤ 15
  | .data v => isDataValue v
  | .frame btn cs => isDataValue btn && cs.length ≤ 13 && cs.all isDataValue
  | .noise vs => vs.all isDataValue

/-- `BUF_CAP` is in 7..15; "A configuration outside 7..15 is refused" (00_scope.md R7). -/
def Config.Params.wellFormed (p : Config.Params) : Bool := 7 ≤ p.bufCap && p.bufCap ≤ 15

end Sys2Proof
end

