-- ==== Sys2Proof/Decode.lean ====
section
/-! DEFINITION. The decoder of 30_encoding.md (R51 to R53, R63), then the encoder, then the expansion of the
pseudo-operations (R62). -/

namespace Sys2Proof

/-- The two byte classes (30_encoding.md R51). -/
inductive ByteClass where
  | SYNC
  | DATA
deriving DecidableEq, Repr

/-- `b[7:4]`. -/
def highNibble (b : Byte) : Nibble := b.extractLsb' 4 4

/-- `b[3:0]`, the length field of a SYNC byte (30_encoding.md R52). -/
def lowNibble (b : Byte) : Nibble := b.extractLsb' 0 4

/-- The byte class function (30_encoding.md R51): it depends on `b[7:4]` only. -/
def byteClass (b : Byte) : ByteClass := if highNibble b = Config.MARKER then .SYNC else .DATA

/-- One row of the opcode map (30_encoding.md R63). -/
structure OpcodeRow where
  mnemonic : String
  mtch : Byte
  mask : Byte
deriving DecidableEq, Repr

/-- The opcode map of 30_encoding.md R63, in the order of spec/opcode_table.json. -/
def opcodeRows : List OpcodeRow :=
  [⟨"SYNC", 0xF0#8, 0xF0#8⟩, ⟨"DATA", 0x00#8, 0x80#8⟩, ⟨"DATA", 0x80#8, 0xC0#8⟩,
   ⟨"DATA", 0xC0#8, 0xE0#8⟩, ⟨"DATA", 0xE0#8, 0xF0#8⟩]

/-- The byte matches the row's pattern. -/
def OpcodeRow.admits (r : OpcodeRow) (b : Byte) : Bool := b &&& r.mask == r.mtch

/-- The row of the opcode map that an instruction belongs to, by its place in `opcodeRows`. -/
def Instr.row : Instr → Nat
  | .sync _ => 0
  | .data0 _ => 1
  | .data10 _ => 2
  | .data110 _ => 3
  | .data1110 _ => 4

/-- The decoder of one byte: "A decoder tests SYNC first (`b & 0xF0 == 0xF0`), and everything else is DATA"
(30_encoding.md R63). Total, because no byte value is illegal or reserved (R59). -/
def decodeByte (b : Byte) : Instr :=
  if b &&& 0xF0#8 = 0xF0#8 then .sync (lowNibble b)
  else if b &&& 0x80#8 = 0x00#8 then .data0 b
  else if b &&& 0xC0#8 = 0x80#8 then .data10 b
  else if b &&& 0xE0#8 = 0xC0#8 then .data110 b
  else .data1110 b

/-- Why a list of bytes holds no instruction at its head. -/
inductive DecodeError where
  /-- The stream has ended; the only way a decode can fail (30_encoding.md R59). -/
  | endOfStream
deriving DecidableEq, Repr

/-- The decoder on a stream: the first instruction and the rest of the bytes. -/
def decode : List Byte → Except DecodeError (Instr × List Byte)
  | [] => .error .endOfStream
  | b :: rest => .ok (decodeByte b, rest)

/-- Every instruction of a stream, in arrival order. -/
def decodeAll (bs : List Byte) : List Instr := bs.map decodeByte

/-- The byte of an instruction word as the opcode table numbers its bits, with every bit above `nbits` zero. -/
def tableByte (nbits w : Nat) : Byte := BitVec.ofNat 8 (w % 2 ^ nbits)

/-- What the decoder reads from an instruction whose bits are `w` (log entry 15). -/
def decodeTableWord (nbits w : Nat) : Option Instr :=
  match decode [tableByte nbits w] with
  | .ok (i, _) => some i
  | .error _ => none

/-- The encoder: the byte of an instruction (30_encoding.md R52, R53). -/
def encode : Instr → List Byte
  | .sync L => [0xF0#8 ||| L.zeroExtend 8]
  | .data0 d => [d]
  | .data10 d => [d]
  | .data110 d => [d]
  | .data1110 d => [d]

/-- The bytes of a list of instructions. -/
def encodeAll (is : List Instr) : List Byte := is.flatMap encode

/-- The bytes a pseudo-operation stands for; `none` where an operand is out of range, which "is refused"
(30_encoding.md R62). -/
def Pseudo.expand (p : Pseudo) : Option (List Byte) :=
  if p.wellFormed then
    some <| match p with
      | .sync L => [0xF0#8 ||| BitVec.ofNat 8 L]
      | .data v => [BitVec.ofNat 8 v]
      | .frame btn cs =>
        (0xF0#8 ||| BitVec.ofNat 8 (cs.length + 2)) :: BitVec.ofNat 8 btn :: cs.map (BitVec.ofNat 8)
      | .noise vs => vs.map (BitVec.ofNat 8)
  else none

end Sys2Proof
end

