-- ==== Sys2Proof/Machine/State.lean ====
section
/-! DEFINITION. The state of one instance (10_state.md R13), the reasons a step can stop, and the state after
reset. -/

namespace Sys2Proof.Machine

/-- The frame buffer's cells that have been written: (index, byte) pairs with strictly rising indices
(20_memory.md R30; log entry 3). A cell that is not listed has no specified value. -/
abbrev Memory := List Host.Cell

/-- The six channel registers RD_CH[1..6] (10_state.md R22). -/
structure Channels where
  ch1 : Byte
  ch2 : Byte
  ch3 : Byte
  ch4 : Byte
  ch5 : Byte
  ch6 : Byte
deriving DecidableEq, Repr

/-- One sample of the input ports at a rising edge of `clk` (42_link_interface.md R96). -/
structure Pins where
  rst : Bool
  det : Bool
  inValid : Bool
  inByte : Byte
deriving DecidableEq, Repr

/-- The state of one instance. The first eight fields are the tuple of 10_state.md R13; the last two are the
model's own (log entries 1 and 4). -/
structure State where
  /-- LINK, 1 bit (R26). -/
  link : Link
  /-- PHASE, 2 bits (R19, R20). -/
  phase : Phase
  /-- LEN, the declared length, 5-bit two's complement (R15, R16). -/
  len : BitVec 5
  /-- IDX, the cursor, 4-bit unsigned (R17, R18). -/
  idx : BitVec 4
  /-- BUF, the frame buffer (R21). -/
  buf : Memory
  /-- RD_VALID, 1 bit (R22). -/
  rdValid : Bool
  /-- RD_COUNT, 3 bits (R22). Kept while RD_VALID is 0 (log entry 19). -/
  rdCount : BitVec 3
  /-- RD_CH[1..6], 8 bits each (R22). Kept while RD_VALID is 0 (log entry 19). -/
  rdCh : Channels
  /-- The samples of the input ports at the coming edges, first one first (log entry 1). -/
  input : List Pins
  /-- The draws of free values made so far (log entry 4). -/
  free : Nat
deriving DecidableEq, Repr

/-- The stuck states of 93_implementation_defined.md I9. No state that meets the invariant `Inv` reaches one. -/
inductive Fault where
  /-- Raised by a DATA byte while LEN holds 15 or -16..-2, a pattern that is never reached (10_state.md R16;
  93_implementation_defined.md I9: stuck). Safe: the model stops where the spec gives a run no meaning. -/
  | unreachableLen
  /-- Raised by a DATA byte while LEN is 1..14 and IDX is above LEN, which is never reached (10_state.md R18;
  93_implementation_defined.md I9: stuck). Safe, for the same reason. -/
  | unreachableIdx
deriving DecidableEq, Repr

/-- What the model gives no meaning (60_exceptions.md R102). -/
inductive Refusal where
  /-- Raised by an arm of `exec` for an instruction that has no meaning yet. No arm raises it now. Safe. -/
  | notModelled (mnemonic : String)
  /-- Raised by every byte fed while LINK is 0 (42_link_interface.md R95). Safe: the source has no state outside
  attach to detach, and a refused run stays refused (93_implementation_defined.md I4). -/
  | feedWhileDetached
  /-- Raised by the parametric machine, in the port form and in the transaction form, for a BUF_CAP outside 7..15 (00_scope.md R7, 60_exceptions.md R102).
  `step` runs with 8 and never raises it. Safe. -/
  | bufCapOutOfRange
deriving DecidableEq, Repr

/-- The state right after reset, which is ATTACH (70_reset_and_hazards.md R120; values of 10_state.md R28). BUF
lists no cell (log entry 3). RD_COUNT and RD_CH have no specified value there and hold 0 (log entry 2). -/
def State.reset : State where
  link := .attached
  phase := .awaitSync
  len := 0#5
  idx := 0#4
  buf := []
  rdValid := false
  rdCount := 0#3
  rdCh := ⟨0#8, 0#8, 0#8, 0#8, 0#8, 0#8⟩
  input := []
  free := 0

end Sys2Proof.Machine
end

