-- ==== Sys2Proof/Machine/Operands.lean ====
section
/-! DEFINITION. The operands of the byte operations: the declared length, the cursor and the cell a data byte
goes to, and the bit patterns of the enumerated registers. -/

namespace Sys2Proof.Machine

/-- The declared length `D = zext_5(L) - 1`, 5-bit two's complement (30_encoding.md R54). -/
def declaredLength (L : Nibble) : BitVec 5 := L.zeroExtend 5 - 1#5

/-- The saturating increment of the cursor (10_state.md R17, 40_frame_synchronizer.md R70). -/
def incrIdx (idx : BitVec 4) : BitVec 4 := if idx = 15#4 then 15#4 else idx + 1#4

/-- The cell that an accepted data byte is stored to, for a buffer of `cap` cells: `BUF[IDX]` while
`zext_5(IDX) < BUF_CAP`, and none otherwise: the byte is dropped (20_memory.md R32). -/
def storeIndex (cap : Nat) (s : State) : Option Nat :=
  if s.idx.toNat < cap then some s.idx.toNat else none

/-- The 2-bit pattern of PHASE (10_state.md R19). -/
def phaseBits : Phase → BitVec 2
  | .awaitSync => 0b00#2
  | .inFrame => 0b01#2
  | .idle => 0b10#2

/-- The 1-bit value of LINK (10_state.md R26). -/
def linkBit : Link → BitVec 1
  | .detached => 0#1
  | .attached => 1#1

/-- The six channel registers loaded from a function of the channel number `k` in 1..6. -/
def Channels.ofChannel (f : Nat → Byte) : Channels := ⟨f 1, f 2, f 3, f 4, f 5, f 6⟩

/-- The six channel registers in order, RD_CH[1] first. -/
def Channels.toList (c : Channels) : List Byte := [c.ch1, c.ch2, c.ch3, c.ch4, c.ch5, c.ch6]

/-- RD_CH[k], `none` for a number outside 1..6 (10_state.md R22). -/
def Channels.get? (c : Channels) : Nat → Option Byte
  | 0 => none
  | k + 1 => c.toList[k]?

end Sys2Proof.Machine
end

