-- ==== Sys2Proof/Machine/Flags.lean ====
section
/-! DEFINITION. The tests and the status values. The block has no condition codes (10_state.md R24): what stands
here is the label PHASE, the strobe RD_VALID, and the comparisons that choose what a byte does. -/

namespace Sys2Proof.Machine

/-- PHASE after a SYNC byte that declares `D`: IN_FRAME when `D != 0`, else IDLE (40_frame_synchronizer.md R67). -/
def phaseOfLength (D : BitVec 5) : Phase := if D = 0#5 then .idle else .inFrame

/-- The pre-sync test `LEN == 0` (40_frame_synchronizer.md R68): no frame is active. -/
def State.noFrame (s : State) : Bool := s.len == 0#5

/-- The completion test `zext_5(IDX) == LEN`, an equality of 5-bit patterns (40_frame_synchronizer.md R71). -/
def State.frameComplete (s : State) : Bool := s.idx.zeroExtend 5 == s.len

/-- LEN holds 15 or -16..-2, which is never reached (93_implementation_defined.md I9). -/
def State.lenUnreachable (s : State) : Bool := 15 ≤ s.len.toNat && s.len.toNat ≤ 30

/-- LEN is 1..14 and IDX is above it, which is never reached (93_implementation_defined.md I9). -/
def State.idxUnreachable (s : State) : Bool :=
  1 ≤ s.len.toNat && s.len.toNat ≤ 14 && s.len.toNat < s.idx.toNat

/-- RD_VALID is 1 after exactly the steps that emit a Reading (10_state.md R22, 40_frame_synchronizer.md R65). -/
def State.setValid (v : Bool) (s : State) : State := { s with rdValid := v }

end Sys2Proof.Machine
end

