-- ==== Sys2Proof/Machine/Ops.lean ====
section
/-! DEFINITION. The named operations over the frame buffer and the registers. The block takes no exception and
returns from none (60_exceptions.md R100, R105, R106), so there is no operation for either. -/

namespace Sys2Proof.Machine

/-- The canonical form of the frame buffer's list: strictly rising indices. An unlisted cell reads as no value,
so no entry equals what an unlisted index reads as. -/
abbrev Memory.wf (m : Memory) : Prop := m.Pairwise fun c d => c.1 < d.1

/-- The byte listed at an index; `none` for a cell that nothing has written. -/
def Memory.read? : Memory → Nat → Option Byte
  | [], _ => none
  | (x, v) :: m, a => if x = a then some v else Memory.read? m a

/-- `BUF[a] <- b`, one whole cell (20_memory.md R32), keeping the canonical form. -/
def Memory.write : Memory → Nat → Byte → Memory
  | [], a, b => [(a, b)]
  | (x, v) :: m, a, b =>
    if a < x then (a, b) :: (x, v) :: m
    else if a = x then (a, b) :: m
    else (x, v) :: Memory.write m a b

/-- `BUF[a]`: the byte of a cell, a free value where nothing has written the cell (20_memory.md R33,
10_state.md R27; log entry 3). A read changes nothing. -/
def State.cell (s : State) (a : Nat) : Byte := (s.buf.read? a).getD (Config.freeCell a)

/-- A Reading: the channel count and the values of channels 1..n (42_link_interface.md R93). -/
structure Reading where
  n : Nat
  ch : List Byte
deriving DecidableEq, Repr

/-- The Reading that the output registers show: RD_COUNT and RD_CH[1..RD_COUNT] while RD_VALID is 1
(10_state.md R22, 42_link_interface.md R93). -/
def State.reading? (s : State) : Option Reading :=
  if s.rdValid then some ⟨s.rdCount.toNat, s.rdCh.toList.take s.rdCount.toNat⟩ else none

/-- RD_CH as a completion leaves it: channel `k` of the Reading for `k <= n`, a free value for `k > n`
(40_frame_synchronizer.md R71; log entry 5). -/
def loadChannels (r : Reading) (draw : Nat) : Channels :=
  Channels.ofChannel fun k => (r.ch[k - 1]?).getD (Config.freeChannel draw k)

/-- The result of one byte: the next state and the Reading handed to the sink in the same step
(42_link_interface.md R92, R93). -/
abbrev FeedResult := Host.Outcome (State × Option Reading) Fault Refusal

/-- The machine of the given build parameters exists only where they are accepted; "A configuration outside 7..15 is
refused" (00_scope.md R7, 60_exceptions.md R102, 93_implementation_defined.md I4). -/
def whenAccepted {α : Type} (p : Config.Params) (r : Host.Outcome α Fault Refusal) : Host.Outcome α Fault Refusal :=
  if p.wellFormed then r else .refused .bufCapOutOfRange

/-- The precondition of FEED, `LINK == 1`; a byte fed while detached is refused (42_link_interface.md R91, R95). -/
def whenAttached (s : State) (r : FeedResult) : FeedResult :=
  match s.link with
  | .attached => r
  | .detached => .refused .feedWhileDetached

/-- The end of every FEED: `RD_VALID <- (out != none)`, then `out` is returned (40_frame_synchronizer.md R65). Where no
frame completed, RD_COUNT and RD_CH keep their values, as 10_state.md R22 and 20_memory.md R42 say; that these rules are
followed over 93_implementation_defined.md I3, which leaves both registers open while RD_VALID is 0, is the model's
choice (DESIGN CHOICE, log entry 19). -/
def finishFeed (s : State) (out : Option Reading) : FeedResult := .next (s.setValid out.isSome, out)

/-- The step's outcome for the host: the Reading is in RD_COUNT and RD_CH (log entry 12). -/
def FeedResult.settle : FeedResult → Host.Outcome State Fault Refusal
  | .next (t, _) => .next t
  | .fault r => .fault r
  | .refused r => .refused r

end Sys2Proof.Machine
end

