-- ==== Sys2Proof/Machine/Decoder.lean ====
section
/-! DEFINITION. The frame decoder, or channel demultiplexer (41_frame_decoder.md). -/

namespace Sys2Proof.Machine

/-- The loop of 41_frame_decoder.md R80 over the indices still to come: where the received byte count covers
index `i` (`i < cnt`), `ch[i] <- BUF[i]` and `n <- i`. -/
def decodeLoop (s : State) (cnt : Nat) : List Nat → Reading → Reading
  | [], r => r
  | i :: is, r => decodeLoop s cnt is (if i < cnt then ⟨i, r.ch ++ [s.cell i]⟩ else r)

/-- DECODE: `i` runs over `1 .. min(D, MAX_CH)` with `D = LEN` and `cnt = IDX` (41_frame_decoder.md R80). It
changes no state (R86). The channel value is the raw byte (R82); cell 0, the button byte, is not read (R85). -/
def decodeFrame (s : State) : Reading :=
  decodeLoop s s.idx.toNat (List.range' 1 (min s.len.toInt Config.MAX_CH).toNat) ⟨0, []⟩

/-- The axis that a channel position names for the sink (41_frame_decoder.md R83). -/
inductive Axis where
  | primaryVertical
  | primaryHorizontal
  | secondaryVertical
  | secondaryHorizontal
  | auxiliaryA
  | auxiliaryB
deriving DecidableEq, Repr

/-- Channel-to-axis naming, fixed by position (41_frame_decoder.md R83). The block computes nothing from it. -/
def axisOf : Nat → Option Axis
  | 1 => some .primaryVertical
  | 2 => some .primaryHorizontal
  | 3 => some .secondaryVertical
  | 4 => some .secondaryHorizontal
  | 5 => some .auxiliaryA
  | 6 => some .auxiliaryB
  | _ => none

end Sys2Proof.Machine
end

