-- ==== Sys2Proof/Machine/Synchronizer.lean ====
section
/-! DEFINITION. The frame synchronizer (40_frame_synchronizer.md): the operations SYNC, DISCARD, ACCUMULATE and
COMPLETE_TEST, the meaning of each row of the opcode table, and FEED as the spec's own dispatch on the byte.
Operations that depend on BUF_CAP take the build parameters as an argument; the meanings use the spec's. -/

namespace Sys2Proof.Machine

open Config (Params)

/-- SYNC: start a new frame (40_frame_synchronizer.md R67). BUF, RD_COUNT and RD_CH are not written
(over 93_implementation_defined.md I3 for the last two: log entry 19). -/
def startFrame (L : Nibble) (s : State) : State :=
  { s with len := declaredLength L, idx := 0#4, phase := phaseOfLength (declaredLength L) }

/-- ACCUMULATE: store the byte while there is room, and advance the cursor also when it is dropped
(40_frame_synchronizer.md R70). -/
def accumulate (p : Params) (b : Byte) (s : State) : State :=
  { s with
    buf := match storeIndex p.bufCap s with
      | some a => s.buf.write a b
      | none => s.buf
    idx := incrIdx s.idx }

/-- The writes of a completion that hands out the Reading `r` (40_frame_synchronizer.md R71). BUF is not written. -/
def completeFrame (r : Reading) (s : State) : State :=
  { s with
    rdCount := BitVec.ofNat 3 r.n
    rdCh := loadChannels r s.free
    idx := 0#4
    len := 0#5
    phase := .idle
    free := s.free + 1 }

/-- COMPLETE_TEST: finish the frame when the cursor has reached the declared length
(40_frame_synchronizer.md R71). DECODE sees LEN and IDX from before the clears. -/
def completeTest (s : State) : State × Option Reading :=
  if s.frameComplete then (completeFrame (decodeFrame s) s, some (decodeFrame s)) else (s, none)

/-- A SYNC byte fed to the block (40_frame_synchronizer.md R65 branch 1). It reads no state but LINK (R66). -/
def feedSync (L : Nibble) (s : State) : FeedResult := whenAttached s (finishFeed (startFrame L s) none)

/-- A DATA byte in frame: ACCUMULATE, then COMPLETE_TEST (40_frame_synchronizer.md R69). -/
def dataInFrame (p : Params) (b : Byte) (s : State) : FeedResult :=
  finishFeed (completeTest (accumulate p b s)).1 (completeTest (accumulate p b s)).2

/-- A DATA byte fed to the block (40_frame_synchronizer.md R65 branches 2 and 3): DISCARD while no frame is active
(R68), else R69. A LEN or IDX that is never reached is a stuck state (93_implementation_defined.md I9; log
entry 8). -/
def feedData (p : Params) (b : Byte) (s : State) : FeedResult :=
  whenAttached s <|
    if s.noFrame then finishFeed s none
    else if s.lenUnreachable then .fault .unreachableLen
    else if s.idxUnreachable then .fault .unreachableIdx
    else dataInFrame p b s

/-- FEED(b) as the spec writes it, a dispatch on the byte itself (40_frame_synchronizer.md R65). -/
def feed (p : Params) (b : Byte) (s : State) : FeedResult :=
  if highNibble b = Config.MARKER then feedSync (lowNibble b) s else feedData p b s

/-- Row SYNC, `1111LLLL` (40_frame_synchronizer.md R67). -/
def execSync (L : Nibble) (s : State) : Host.Outcome State Fault Refusal := (feedSync L s).settle

/-- Row DATA, `0ddddddd` (40_frame_synchronizer.md R68, R69). -/
def execData0 (d : Byte) (s : State) : Host.Outcome State Fault Refusal := (feedData Config.params d s).settle

/-- Row DATA, `10dddddd` (40_frame_synchronizer.md R68, R69). -/
def execData10 (d : Byte) (s : State) : Host.Outcome State Fault Refusal := (feedData Config.params d s).settle

/-- Row DATA, `110ddddd` (40_frame_synchronizer.md R68, R69). -/
def execData110 (d : Byte) (s : State) : Host.Outcome State Fault Refusal := (feedData Config.params d s).settle

/-- Row DATA, `1110dddd` (40_frame_synchronizer.md R68, R69). -/
def execData1110 (d : Byte) (s : State) : Host.Outcome State Fault Refusal := (feedData Config.params d s).settle

end Sys2Proof.Machine
end

