-- ==== Sys2Proof/Machine/LinkInterface.lean ====
section
/-! DEFINITION. The link interface (42_link_interface.md): ATTACH, DETACH and the idle edge, the transaction form
of the machine (R93), the choice of a command from the input ports (R97, R98), and the parametric machine. -/

namespace Sys2Proof.Machine

open Config (Params)

/-- ATTACH (42_link_interface.md R90), in any state. RD_COUNT and RD_CH have no specified value afterwards
(10_state.md R28) and take free values (log entry 4). BUF, unspecified there too, is kept: 20_memory.md R32 says that
ATTACH does not write it, and following that is the model's choice (DEDUCED, log entry 3). -/
def attach (s : State) : State :=
  { s with
    link := .attached
    phase := .awaitSync
    len := 0#5
    idx := 0#4
    rdValid := false
    rdCount := Config.freeCount s.free
    rdCh := Channels.ofChannel (Config.freeChannel s.free)
    free := s.free + 1 }

/-- DETACH while attached: `LINK <- 0`, `RD_VALID <- 0`, and every other register is not specified from then on
(42_link_interface.md R94; log entry 4). BUF, among them, is kept: 20_memory.md R32 says that DETACH does not write it,
and following that is the model's choice (DEDUCED, log entry 3). -/
def release (s : State) : State :=
  { s with
    link := .detached
    rdValid := false
    phase := Config.freePhase s.free
    len := Config.freeLen s.free
    idx := Config.freeIdx s.free
    rdCount := Config.freeCount s.free
    rdCh := Channels.ofChannel (Config.freeChannel s.free)
    free := s.free + 1 }

/-- DETACH (42_link_interface.md R94). "DETACH while already detached does nothing"; RD_VALID is 0 after it in
either case (log entry 11), and a repeated DETACH keeps RD_COUNT and RD_CH (DESIGN CHOICE, log entry 19). -/
def detach (s : State) : State :=
  match s.link with
  | .attached => release s
  | .detached => s.setValid false

/-- An edge with no command: `RD_VALID <- 0` and nothing else changes (42_link_interface.md R97). RD_COUNT and RD_CH are
kept by that rule and 10_state.md R22, over 93_implementation_defined.md I3 (DESIGN CHOICE, log entry 19). -/
def idleEdge (s : State) : State := s.setValid false

/-- Power-up, before the first ATTACH: LINK is 0 and every other register is not specified
(10_state.md R26, 70_reset_and_hazards.md R121; log entry 4). -/
def State.powerUp : State where
  link := .detached
  phase := Config.freePhase 0
  len := Config.freeLen 0
  idx := Config.freeIdx 0
  buf := []
  rdValid := Config.freeValid 0
  rdCount := Config.freeCount 0
  rdCh := Channels.ofChannel (Config.freeChannel 0)
  input := []
  free := 1

/-- The commands of the transaction form (42_link_interface.md R93). -/
inductive Cmd where
  | attach
  | feed (b : Byte)
  | detach
deriving DecidableEq, Repr

/-- The transaction-level step `State -> Cmd -> Next(State, Option Reading) | Refused` (42_link_interface.md
R93), for given build parameters. Parameters outside 7..15 are refused, whatever the command (00_scope.md R7,
60_exceptions.md R102). -/
def transact (p : Params) (c : Cmd) (s : State) : FeedResult :=
  whenAccepted p <| match c with
  | .attach => .next (attach s, none)
  | .feed b => feed p b s
  | .detach => .next (detach s, none)

/-- The output ports of the instance (42_link_interface.md R96). -/
structure OutPins where
  outValid : Bool
  outCount : BitVec 3
  outCh : Channels
deriving DecidableEq, Repr

/-- The output ports show the registers RD_VALID, RD_COUNT and RD_CH, and no other state (42_link_interface.md R96,
10_state.md R14). `out_chk` is meaningful only while `out_valid` is 1 and `k <= out_count`. -/
def State.outPins (s : State) : OutPins := ⟨s.rdValid, s.rdCount, s.rdCh⟩

/-- The command of an edge: `rst` over `det` over `in_valid`, and none where all are low; a losing command has no
effect (42_link_interface.md R97, R98). -/
def Pins.command (e : Pins) : Option Cmd :=
  if e.rst then some .attach
  else if e.det then some .detach
  else if e.inValid then some (.feed e.inByte)
  else none

/-- The ports of an edge that offers the byte `b` and nothing else. -/
def Pins.feed (b : Byte) : Pins := ⟨false, false, true, b⟩

/-- The ports of an edge that carries the command `c` and nothing else. -/
def Cmd.pins : Cmd → Pins
  | .attach => ⟨true, false, false, 0#8⟩
  | .feed b => Pins.feed b
  | .detach => ⟨false, true, false, 0#8⟩

/-- The command of the next edge, and the state once that edge's sample has been taken. Where no sample is listed
the ports are low: "stalled input simply means no frames are ever completed" (42_link_interface.md R97;
log entry 1). -/
def State.takeEdge (s : State) : Option Cmd × State :=
  match s.input with
  | [] => (none, s)
  | e :: rest => (e.command, { s with input := rest })

/-- The machine's step for given build parameters, from the spec's own FEED. Parameters outside 7..15 are refused
(00_scope.md R7, 60_exceptions.md R102). -/
def stepWith (p : Params) (s : State) : Host.Outcome State Fault Refusal :=
  whenAccepted p <| match s.takeEdge with
    | (none, t) => .next (idleEdge t)
    | (some c, t) => (transact p c t).settle

/-- The instruction word stored where the next step takes its byte: an edge that offers it, before every other
(log entry 15). -/
def State.offerByte (b : Byte) (s : State) : State := { s with input := Pins.feed b :: s.input }

end Sys2Proof.Machine
end

