-- ==== Sys2Proof/Machine/Dispatch.lean ====
section
/-! DEFINITION. One arm per constructor of Instr. -/

namespace Sys2Proof.Machine

def exec (i : Instr) (s : State) : Host.Outcome State Fault Refusal :=
  match i with
  | .sync L => Sys2Proof.Machine.execSync L s
  | .data0 d => Sys2Proof.Machine.execData0 d s
  | .data10 d => Sys2Proof.Machine.execData10 d s
  | .data110 d => Sys2Proof.Machine.execData110 d s
  | .data1110 d => Sys2Proof.Machine.execData1110 d s

end Sys2Proof.Machine
end

