-- ==== Sys2Proof/Machine/Step.lean ====
section
/-! DEFINITION. One step: one rising edge of `clk` (42_link_interface.md R97). -/

namespace Sys2Proof.Machine

/-- Takes the next sample of the input ports, and carries out its command: ATTACH, DETACH, or the instruction
that the offered byte decodes to; an edge with no command only clears RD_VALID (42_link_interface.md R97). -/
def step (s : State) : Host.Outcome State Fault Refusal :=
  match s.takeEdge with
  | (none, t) => .next (idleEdge t)
  | (some .attach, t) => .next (attach t)
  | (some .detach, t) => .next (detach t)
  | (some (.feed b), t) => exec (decodeByte b) t

/-- `s` with that instruction offered at the very next edge (log entries 1 and 15). -/
def State.withFetchWord (s : State) (nbits w : Nat) : State := s.offerByte (tableByte nbits w)

end Sys2Proof.Machine
end

