-- ==== Sys2Proof/Safety.lean ====
section
/-! DEFINITION. The terms that claims are stated in: the invariant of the reachable states, what the outside
observes of a run, when two states look the same from outside, and the source's algorithm over plain integers. -/

namespace Sys2Proof.Machine

open Config (Params)

/-- The invariant that every step keeps: the buffer's canonical form, and the facts of 10_state.md R16, R18 to
R20, R22, 20_memory.md R34 and 30_encoding.md R60. While detached only the buffer and RD_VALID are constrained,
because every other register is not specified (10_state.md R26). -/
structure Inv (s : State) : Prop where
  /-- The list of the frame buffer is in canonical form. -/
  bufCanonical : s.buf.wf
  /-- Every written cell lies in 0..BUF_CAP-1 (R30) and holds a DATA byte (R60). -/
  bufCells : ∀ c ∈ s.buf, c.1 < Config.params.bufCap ∧ c.2.toNat ≤ 0xEF
  /-- LEN is -1 or 0..14 (R16). -/
  lenReachable : s.link = .attached → s.len = 31#5 ∨ s.len.toNat ≤ 14
  /-- PHASE is IN_FRAME if and only if LEN is not 0 (R20). -/
  phaseInFrame : s.link = .attached → (s.phase = .inFrame ↔ s.len ≠ 0#5)
  /-- While LEN is 0, IDX is 0 (R18). -/
  idxClear : s.link = .attached → s.len = 0#5 → s.idx = 0#4
  /-- While LEN is 1..14, IDX is in 0..LEN-1 (R18). -/
  idxBelow : s.link = .attached → s.len ≠ 0#5 → s.len ≠ 31#5 → s.idx.toNat < s.len.toNat
  /-- The current frame has written the cells below the cursor (R34). -/
  cellsWritten : s.link = .attached → s.len ≠ 0#5 →
    ∀ k, k < s.idx.toNat → k < Config.params.bufCap → (s.buf.read? k).isSome
  /-- RD_VALID is 1 only right after a completion (R22): attached, IDLE, LEN and IDX clear. -/
  validIdle : s.rdValid = true →
    s.link = .attached ∧ s.phase = .idle ∧ s.len = 0#5 ∧ s.idx = 0#4
  /-- The Reading on the output registers has at most six channels (R22), each a DATA byte (R60). -/
  validChannels : s.rdValid = true →
    s.rdCount.toNat ≤ Config.MAX_CH ∧ ∀ b ∈ s.rdCh.toList.take s.rdCount.toNat, b.toNat ≤ 0xEF

/-- How an observed run stands after its last step. -/
inductive Ending where
  | running
  | stuck (r : Fault)
  | refused (r : Refusal)
deriving DecidableEq, Repr

/-- What the outside observes of a run: the Readings in order, and whether the run was refused
(42_link_interface.md R93). -/
structure Observation where
  readings : List Reading
  ending : Ending
deriving DecidableEq, Repr

/-- The observation that `o` becomes when a step before it handed out `r`. -/
def Observation.after (r : Option Reading) (o : Observation) : Observation := ⟨r.toList ++ o.readings, o.ending⟩

/-- The observation of `k` steps of a machine, read from the output registers after each step. -/
def observe (next : State → Host.Outcome State Fault Refusal) : Nat → State → Observation
  | 0, _ => ⟨[], .running⟩
  | k + 1, s =>
    match next s with
    | .next t => (observe next k t).after t.reading?
    | .fault r => ⟨[], .stuck r⟩
    | .refused r => ⟨[], .refused r⟩

/-- The observation of a list of commands in the transaction form, from the Readings that `transact` hands out. Build
parameters outside 7..15 are refused at the first command (`transact`). -/
def observeCmds (p : Params) : List Cmd → State → Observation
  | [], _ => ⟨[], .running⟩
  | c :: cs, s =>
    match transact p c s with
    | .next (t, out) => (observeCmds p cs t).after out
    | .fault r => ⟨[], .stuck r⟩
    | .refused r => ⟨[], .refused r⟩

/-- `s` with the given samples as all that the input ports will bring. -/
def State.withInput (s : State) (es : List Pins) : State := { s with input := es }

/-- `s` with the given bytes offered one an edge, and nothing else. -/
def State.withBytes (s : State) (bs : List Byte) : State := s.withInput (bs.map Pins.feed)

/-- The byte is a DATA byte (30_encoding.md R51, R53). -/
def isData (b : Byte) : Prop := highNibble b ≠ Config.MARKER

/-- The SYNC byte of a length field (30_encoding.md R52). -/
def syncByte (L : Nibble) : Byte := 0xF0#8 ||| L.zeroExtend 8

/-- A frame is its length field and the data bytes after the SYNC byte (30_encoding.md R56, R58): `L` in 2..15 and
exactly `L - 1` DATA bytes. -/
def IsFrame (f : Nibble × List Byte) : Prop :=
  2 ≤ f.1.toNat ∧ f.2.length + 1 = f.1.toNat ∧ ∀ d ∈ f.2, isData d

/-- The bytes of a frame on the wire. -/
def frameBytes (f : Nibble × List Byte) : List Byte := syncByte f.1 :: f.2

/-- Two states look the same to the sink from here on: the same ports, and while attached the same LEN and IDX and
the same channel cells 1..6 as far as the current frame has written them. PHASE, the button cell, the other cells of
BUF, and RD_COUNT and RD_CH while RD_VALID is 0 may differ (10_state.md R14, R20, R22, R27). -/
structure SameView (s t : State) : Prop where
  input : s.input = t.input
  link : s.link = t.link
  reading : s.reading? = t.reading?
  len : s.link = .attached → s.len = t.len
  idx : s.link = .attached → s.idx = t.idx
  cells : s.link = .attached → s.len ≠ 0#5 →
    ∀ k, 1 ≤ k → k ≤ Config.MAX_CH → k < s.idx.toNat → s.cell k = t.cell k

/-- The source's synchronizer over plain integers (30_encoding.md R54, R56): a declared length of any size and the
data bytes of the frame so far, with no register width, no capacity and no saturation. -/
structure SourceSync where
  declared : Int
  received : List Byte
deriving DecidableEq, Repr

/-- One byte of the source's algorithm: a marker sets `declared_length` to its low nibble minus 1; a data byte is
dropped while that is 0, and else completes the frame when the count of received bytes equals it. The Reading has
the data bytes after the first, six at most. -/
def SourceSync.onByte (b : Byte) (r : SourceSync) : SourceSync × Option Reading :=
  if 0xF0 ≤ b.toNat then (⟨(b.toNat : Int) - 0xF0 - 1, []⟩, none)
  else if r.declared = 0 then (r, none)
  else if ((r.received ++ [b]).length : Int) = r.declared then
    (⟨0, []⟩, some ⟨min (r.declared - 1).toNat 6, ((r.received ++ [b]).drop 1).take 6⟩)
  else (⟨r.declared, r.received ++ [b]⟩, none)

/-- The Readings of the source's algorithm on a byte stream. -/
def SourceSync.readings : List Byte → SourceSync → List Reading
  | [], _ => []
  | b :: bs, r => (r.onByte b).2.toList ++ SourceSync.readings bs (r.onByte b).1

end Sys2Proof.Machine
end

