-- ==== Sys2Proof/Certificates/Slice0/Obligations.lean ====
section
/-! DEFINITION. The statements for the provers. Each docstring names the rule of spec/ it formalises. Where a clause
rests on a decision or a derivation that the spec marks as its own, or on a choice of the model, the docstring says so. -/

open Sys2Proof Sys2Proof.Machine

/-! ## Encoding -/

/-- Bytes written out from the patterns of 30_encoding.md R63 decode to their rows. -/
def Obligations.SampleBytesDecodeToTheirRows : Prop :=
  decode [0b11110000#8] = .ok (.sync 0#4, []) ∧ decode [0b11111000#8] = .ok (.sync 8#4, []) ∧
  decode [0b11111111#8] = .ok (.sync 15#4, []) ∧
  decode [0b00000000#8] = .ok (.data0 0x00#8, []) ∧ decode [0b01111111#8] = .ok (.data0 0x7F#8, []) ∧
  decode [0b10000000#8] = .ok (.data10 0x80#8, []) ∧ decode [0b10111111#8] = .ok (.data10 0xBF#8, []) ∧
  decode [0b11000000#8] = .ok (.data110 0xC0#8, []) ∧ decode [0b11011111#8] = .ok (.data110 0xDF#8, []) ∧
  decode [0b11100000#8] = .ok (.data1110 0xE0#8, []) ∧ decode [0b11101111#8] = .ok (.data1110 0xEF#8, [])

/-- The byte class function (30_encoding.md R51): SYNC exactly for the bytes whose masked high nibble is `0xF0`, so
that it depends on `b[7:4]` only; the 16 values 0xF0 to 0xFF are SYNC and the 240 values 0x00 to 0xEF are DATA. -/
def Obligations.ByteClassIsTheHighNibbleTest : Prop :=
  (∀ b : Byte, byteClass b = .SYNC ↔ b &&& 0xF0#8 = 0xF0#8) ∧
  (∀ b c : Byte, b.extractLsb' 4 4 = c.extractLsb' 4 4 → byteClass b = byteClass c) ∧
  (∀ b : Byte, byteClass b = .SYNC ↔ 0xF0 ≤ b.toNat) ∧
  (∀ b : Byte, byteClass b = .DATA ↔ b.toNat ≤ 0xEF)

/-- Every byte matches exactly one row of the opcode map (30_encoding.md R63), the decoder gives that row, and the
instruction keeps every bit of the byte. -/
def Obligations.EveryByteMatchesOneRow : Prop :=
  ∀ b : Byte,
    (opcodeRows.filter fun r => r.admits b).length = 1 ∧
    (∃ r, opcodeRows[(decodeByte b).row]? = some r ∧ r.admits b = true) ∧
    (decodeByte b).wellFormed = true ∧ encode (decodeByte b) = [b]

/-- Decoding gives back every list of well-formed instructions, whatever their operands, and encoding gives back
every byte stream (30_encoding.md R52, R53, R63). -/
def Obligations.StreamDecodesToWhatWasEncoded : Prop :=
  (∀ is : List Instr, (∀ i ∈ is, i.wellFormed = true) → decodeAll (encodeAll is) = is) ∧
  (∀ bs : List Byte, (∀ i ∈ decodeAll bs, i.wellFormed = true) ∧ encodeAll (decodeAll bs) = bs)

/-- The declared length of every length field (30_encoding.md R54): `zext_5(L) - 1`, which is the integer `L - 1`.
That `L = 0` reads as -1 is the spec's own decision D3 (log entry 10). -/
def Obligations.DeclaredLengthIsLMinusOne : Prop :=
  ∀ L : Nibble, declaredLength L = L.zeroExtend 5 - 1#5 ∧ (declaredLength L).toInt = (L.toNat : Int) - 1

/-- The pseudo-operations (30_encoding.md R62, the spec's own decision D23): one is refused exactly when an operand is
out of range; FRAME is the SYNC byte of `n + 2` and `n + 1` DATA bytes; NOISE has no SYNC byte. -/
def Obligations.PseudoOperationsExpandToFrames : Prop :=
  (∀ p : Pseudo, p.expand = none ↔ p.wellFormed = false) ∧
  (∀ (btn : Nat) (cs : List Nat), (Pseudo.frame btn cs).wellFormed = true →
    ∃ ds : List Byte,
      (Pseudo.frame btn cs).expand = some (syncByte (BitVec.ofNat 4 (cs.length + 2)) :: ds) ∧
      ds.map BitVec.toNat = btn :: cs ∧ ∀ d ∈ ds, isData d) ∧
  (∀ vs : List Nat, (Pseudo.noise vs).wellFormed = true →
    ∃ ds : List Byte, (Pseudo.noise vs).expand = some ds ∧ ds.map BitVec.toNat = vs ∧ ∀ d ∈ ds, isData d) ∧
  (∀ L : Nat, L ≤ 15 → (Pseudo.sync L).expand = some [syncByte (BitVec.ofNat 4 L)]) ∧
  (∀ v : Nat, v ≤ 0xEF → ∃ d : Byte, (Pseudo.data v).expand = some [d] ∧ d.toNat = v ∧ isData d)

/-! ## What each byte does -/

/-- SYNC (40_frame_synchronizer.md R66, R67): while attached it starts a new frame, whatever the other state is. LEN,
IDX, PHASE and RD_VALID are written; BUF, RD_COUNT, RD_CH and LINK are not; no Reading is handed out. R67 itself says
that RD_COUNT and RD_CH are not written; following it over 93_implementation_defined.md I3 is the model's choice (log
entry 19). -/
def Obligations.SyncStartsFrame : Prop :=
  ∀ (L : Nibble) (s : State), s.link = .attached →
    ∃ t, exec (.sync L) s = .next t ∧
      t.len = L.zeroExtend 5 - 1#5 ∧ t.idx = 0#4 ∧
      t.phase = (if L.zeroExtend 5 - 1#5 ≠ 0#5 then Phase.inFrame else Phase.idle) ∧
      t.rdValid = false ∧ t.reading? = none ∧
      t.link = s.link ∧ t.rdCount = s.rdCount ∧ t.rdCh = s.rdCh ∧
      (∀ a, t.cell a = s.cell a) ∧ t.buf = s.buf ∧ t.input = s.input ∧ t.free = s.free

/-- DISCARD (40_frame_synchronizer.md R68): while attached with LEN 0, each row of DATA writes nothing but RD_VALID and
hands out no Reading; the byte's value does not matter. R68 itself says that no register is written; following it over
93_implementation_defined.md I3 for RD_COUNT and RD_CH is the model's choice (log entry 19). -/
def Obligations.DataDiscardedWhileNoFrame : Prop :=
  ∀ (d : Byte) (s : State), s.link = .attached → s.len = 0#5 →
    ∀ i ∈ [Instr.data0 d, .data10 d, .data110 d, .data1110 d],
      ∃ t, exec i s = .next t ∧
        t.rdValid = false ∧ t.reading? = none ∧
        t.link = s.link ∧ t.phase = s.phase ∧ t.len = s.len ∧ t.idx = s.idx ∧
        t.rdCount = s.rdCount ∧ t.rdCh = s.rdCh ∧
        (∀ a, t.cell a = s.cell a) ∧ t.buf = s.buf ∧ t.input = s.input ∧ t.free = s.free

/-- ACCUMULATE without completion (40_frame_synchronizer.md R70, R71): while attached in a frame that this byte does
not complete, each row of DATA stores its whole byte at the cursor while that is below BUF_CAP, else drops it; the
cursor advances in both cases and saturates at 15 (the spec's own decision D4); nothing else changes but RD_VALID. The
frame is one that LEN and IDX can reach: LEN is -1, or 1..14 and above IDX. That RD_COUNT and RD_CH are kept, over
93_implementation_defined.md I3, is the model's choice (log entry 19). -/
def Obligations.DataStoredInFrame : Prop :=
  ∀ (d : Byte) (s : State), s.link = .attached → s.len ≠ 0#5 →
    (s.len = 31#5 ∨ s.len.toNat ≤ 14 ∧ s.idx.toNat + 1 < s.len.toNat) →
    ∀ i ∈ [Instr.data0 d, .data10 d, .data110 d, .data1110 d],
      ∃ t, exec i s = .next t ∧
        t.idx = (if s.idx = 15#4 then 15#4 else s.idx + 1#4) ∧
        (∀ a, storeIndex Config.params.bufCap s = some a →
          a = s.idx.toNat ∧ a < 8 ∧ t.cell a = d ∧ ∀ x, x ≠ a → t.cell x = s.cell x) ∧
        (storeIndex Config.params.bufCap s = none → 8 ≤ s.idx.toNat ∧ ∀ x, t.cell x = s.cell x) ∧
        t.rdValid = false ∧ t.reading? = none ∧
        t.link = s.link ∧ t.phase = s.phase ∧ t.len = s.len ∧
        t.rdCount = s.rdCount ∧ t.rdCh = s.rdCh ∧ t.input = s.input ∧ t.free = s.free

/-- COMPLETE_TEST and DECODE (40_frame_synchronizer.md R71; 41_frame_decoder.md R80 to R82, R84): while attached with
LEN `D` in 1..14 and `IDX + 1 = D`, each row of DATA completes the frame. The byte is stored as in ACCUMULATE; RD_COUNT
is `min(D - 1, 6)`; RD_CH[k] for `1 <= k <= n` is the raw byte of cell `k`; the Reading has exactly those channels; IDX
and LEN are 0 and PHASE is IDLE. The reading of "covers index i" is the spec's own decision D24. Of RD_CH[k] for
`k > n` nothing is said (93_implementation_defined.md I3). -/
def Obligations.DataCompletesFrame : Prop :=
  ∀ (d : Byte) (s : State), s.link = .attached → s.len ≠ 0#5 → s.len.toNat ≤ 14 →
    s.idx.toNat + 1 = s.len.toNat →
    ∀ i ∈ [Instr.data0 d, .data10 d, .data110 d, .data1110 d],
      ∃ t, exec i s = .next t ∧
        t.idx = 0#4 ∧ t.len = 0#5 ∧ t.phase = .idle ∧ t.rdValid = true ∧
        t.rdCount.toNat = min (s.len.toNat - 1) 6 ∧
        (∀ k, 1 ≤ k → k ≤ min (s.len.toNat - 1) 6 →
          t.rdCh.get? k = some (if k = s.idx.toNat then d else s.cell k)) ∧
        t.reading? = some ⟨min (s.len.toNat - 1) 6,
          (List.range' 1 (min (s.len.toNat - 1) 6)).map fun k => if k = s.idx.toNat then d else s.cell k⟩ ∧
        (∀ a, storeIndex Config.params.bufCap s = some a →
          a = s.idx.toNat ∧ a < 8 ∧ t.cell a = d ∧ ∀ x, x ≠ a → t.cell x = s.cell x) ∧
        (storeIndex Config.params.bufCap s = none → 8 ≤ s.idx.toNat ∧ ∀ x, t.cell x = s.cell x) ∧
        t.link = s.link ∧ t.input = s.input

/-- The stuck states (93_implementation_defined.md I9; that SYNC, ATTACH, DETACH and idle edges go on there is the
model's choice, log entry 8): a DATA byte in a frame whose LEN is 15 or -16..-2, or whose IDX is above a LEN of
1..14, stops under a name of its own. -/
def Obligations.UnreachableRegistersAreStuck : Prop :=
  ∀ (d : Byte) (s : State), s.link = .attached →
    ∀ i ∈ [Instr.data0 d, .data10 d, .data110 d, .data1110 d],
      (15 ≤ s.len.toNat → s.len.toNat ≤ 30 → exec i s = .fault .unreachableLen) ∧
      (1 ≤ s.len.toNat → s.len.toNat ≤ 14 → s.len.toNat < s.idx.toNat → exec i s = .fault .unreachableIdx)

/-- A byte fed while detached is refused (42_link_interface.md R95, the spec's own decision D10), and once a FEED is
refused the run stays refused (93_implementation_defined.md I4). -/
def Obligations.DetachedByteRefusedForGood : Prop :=
  (∀ (i : Instr) (s : State), s.link = .detached → exec i s = .refused .feedWhileDetached) ∧
  (∀ (b : Byte) (k : Nat) (s : State), s.link = .detached → s.takeEdge.1 = some (.feed b) →
    Host.Core.run Sys2Proof.core (k + 1) s = .refused .feedWhileDetached)

/-! ## One step -/

/-- A step runs the decoded byte: where the next edge offers a byte that decodes to `i`, the step is `exec i` at the
state whose sample of the ports has been taken (42_link_interface.md R91, R97). The second clause is the model's own
choice and no rule of the spec: `withFetchWord` places the word's byte before every sample already listed and leaves LINK
as it is, so that the very next step runs it (DESIGN CHOICE, log entries 1 and 15). -/
def Obligations.StepRunsTheDecodedByte : Prop :=
  (∀ (s : State) (b : Byte) (rest : List Pins) (i : Instr),
    s.input = ⟨false, false, true, b⟩ :: rest → decode [b] = .ok (i, []) →
    step s = exec i (s.withInput rest)) ∧
  (∀ (s : State) (w : Nat), step (s.withFetchWord 8 w) = exec (decodeByte (BitVec.ofNat 8 w)) s)

/-- The choice of the command at an edge (42_link_interface.md R97, R98, the spec's own decisions D27 and D28): rst
over det over in_valid, the losing command has no effect and its byte is lost. An edge with no command only clears
RD_VALID; so does a step for which no sample is listed (log entry 1). That RD_COUNT and RD_CH are kept there, over
93_implementation_defined.md I3, is the model's choice (log entry 19). -/
def Obligations.PortPriorityIsRstDetByte : Prop :=
  ∀ (s : State) (e : Pins) (rest : List Pins),
    (s.input = e :: rest → e.rst = true → step s = .next (attach (s.withInput rest))) ∧
    (s.input = e :: rest → e.rst = false → e.det = true → step s = .next (detach (s.withInput rest))) ∧
    (s.input = e :: rest → e.rst = false → e.det = false → e.inValid = true →
      step s = exec (decodeByte e.inByte) (s.withInput rest)) ∧
    (s.input = e :: rest → e.rst = false → e.det = false → e.inValid = false →
      ∃ t, step s = .next t ∧ t.rdValid = false ∧ t.reading? = none ∧ t.input = rest ∧ t.link = s.link ∧
        t.phase = s.phase ∧ t.len = s.len ∧ t.idx = s.idx ∧ t.buf = s.buf ∧ t.rdCount = s.rdCount ∧
        t.rdCh = s.rdCh ∧ t.free = s.free) ∧
    (s.input = [] →
      ∃ t, step s = .next t ∧ t.rdValid = false ∧ t.reading? = none ∧ t.input = [] ∧ t.link = s.link ∧
        t.phase = s.phase ∧ t.len = s.len ∧ t.idx = s.idx ∧ t.buf = s.buf ∧ t.rdCount = s.rdCount ∧
        t.rdCh = s.rdCh ∧ t.free = s.free)

/-- ATTACH (42_link_interface.md R90, 70_reset_and_hazards.md R120, R124): an edge with rst high answers, in any
state (the spec's own decision D10 while attached), the values of 10_state.md R28 for LINK, PHASE, LEN, IDX and RD_VALID
(for PHASE, IDX and RD_VALID the spec's own decision D8), and the same registers as `State.reset`. Of RD_COUNT and
RD_CH nothing is said.
The two clauses that every cell and the list of BUF are kept are the model's own choice (DEDUCED, log entry 3):
20_memory.md R32 says that ATTACH does not write BUF, but R28 and R90 leave BUF unspecified after it and
93_implementation_defined.md I5 lets a model zero, keep or free it. -/
def Obligations.AttachGivesTheResetState : Prop :=
  ∀ (s : State) (e : Pins) (rest : List Pins), s.input = e :: rest → e.rst = true →
    ∃ t, step s = .next t ∧
      t.link = .attached ∧ t.phase = .awaitSync ∧ t.len = 0#5 ∧ t.idx = 0#4 ∧ t.rdValid = false ∧
      t.reading? = none ∧ (∀ a, t.cell a = s.cell a) ∧ t.buf = s.buf ∧ t.input = rest ∧
      t.link = State.reset.link ∧ t.phase = State.reset.phase ∧ t.len = State.reset.len ∧
      t.idx = State.reset.idx ∧ t.rdValid = State.reset.rdValid

/-- DETACH (42_link_interface.md R94): LINK and RD_VALID are 0 after it and no Reading is handed out. After a DETACH
while attached nothing is said of PHASE, LEN, IDX, RD_COUNT and RD_CH, which become unspecified. BUF becomes unspecified
too (R94; 93_implementation_defined.md I7: any value), while 20_memory.md R32 says that DETACH does not write it: the two
clauses that every cell and the list of BUF are kept are the model's own choice (DEDUCED, log entry 3). A DETACH while
detached changes nothing (the spec's own decision D10) but RD_VALID (log entry 11; that it keeps RD_COUNT and RD_CH, over
93_implementation_defined.md I3, is the model's choice, log entry 19). -/
def Obligations.DetachReleasesTheLink : Prop :=
  ∀ (s : State) (e : Pins) (rest : List Pins), s.input = e :: rest → e.rst = false → e.det = true →
    ∃ t, step s = .next t ∧
      t.link = .detached ∧ t.rdValid = false ∧ t.reading? = none ∧ t.input = rest ∧
      (∀ a, t.cell a = s.cell a) ∧ t.buf = s.buf ∧
      (s.link = .detached → t.phase = s.phase ∧ t.len = s.len ∧ t.idx = s.idx ∧ t.rdCount = s.rdCount ∧
        t.rdCh = s.rdCh ∧ t.free = s.free)

/-- The state after reset (10_state.md R28, the spec's own decision D8; 70_reset_and_hazards.md R120). That BUF lists no
cell there is the model's own choice, for contents that the spec leaves unspecified (R28, its decision D9; log
entry 3). -/
def Obligations.ResetHoldsTheSpecifiedValues : Prop :=
  State.reset.link = .attached ∧ phaseBits State.reset.phase = 0b00#2 ∧ State.reset.len = 0#5 ∧
  State.reset.idx = 0#4 ∧ State.reset.rdValid = false ∧ State.reset.buf = []

/-- The machine by instructions is the machine of the spec's own FEED dispatch on the byte (40_frame_synchronizer.md
R65), at the spec's BUF_CAP; a BUF_CAP outside 7..15 is refused in the port form and in the transaction form, at every
edge and for every command (00_scope.md R7, 60_exceptions.md R102, the spec's own decision D1). -/
def Obligations.StepIsTheFeedDispatch : Prop :=
  (∀ s : State, step s = stepWith Config.params s) ∧
  (∀ (n : Nat) (s : State), n < 7 ∨ 15 < n → stepWith ⟨n⟩ s = .refused .bufCapOutOfRange) ∧
  (∀ (n : Nat) (c : Cmd) (s : State), n < 7 ∨ 15 < n → transact ⟨n⟩ c s = .refused .bufCapOutOfRange) ∧
  (∀ (n : Nat) (c : Cmd) (cs : List Cmd) (s : State), n < 7 ∨ 15 < n →
    observeCmds ⟨n⟩ (c :: cs) s = ⟨[], .refused .bufCapOutOfRange⟩)

/-! ## The whole machine -/

/-- The invariant holds after reset (10_state.md R18: "The spec fixes 0 so that the invariant of rule R18 holds from
reset", R29). -/
def Obligations.ResetMeetsTheInvariant : Prop := Inv State.reset

/-- Every step keeps the invariant: the buffer's canonical form and bounds, the reachable LEN, PHASE and IDX
(10_state.md R16, R18, R19, R20), the written cells (20_memory.md R34) and the Reading on the ports (R22, R60). From
every state that meets it, not only from reset. What it says of the listed cells after an ATTACH or a DETACH, and of
every listed cell being a DATA byte, rests on the model's choice that both keep BUF (DEDUCED, log entry 3). -/
def Obligations.StepKeepsTheInvariant : Prop :=
  ∀ s t : State, Inv s → step s = .next t → Inv t

/-- Every byte value has a defined effect in every attached state that meets the invariant (30_encoding.md R59,
40_frame_synchronizer.md R65, 60_exceptions.md R100): every instruction completes. No step is ever stuck, and the only
refusal is a byte fed while detached (60_exceptions.md R102). -/
def Obligations.NoByteIsIllegal : Prop :=
  ∀ s : State, Inv s →
    (s.link = .attached → ∀ i : Instr, ∃ t, exec i s = .next t) ∧
    ((∃ t, step s = .next t) ∨
      (∃ b, s.takeEdge.1 = some (.feed b)) ∧ s.link = .detached ∧ step s = .refused .feedWhileDetached)

/-- BUF is written only by an accepted DATA byte, one whole cell, at IDX while that is below BUF_CAP (20_memory.md
R32). No other step writes BUF: SYNC, a discarded byte, a dropped byte, ATTACH, DETACH and idle edges leave it. For the
edges with ATTACH or DETACH the second clause is the model's own choice (DEDUCED, log entry 3): R32 says so, but
10_state.md R28 and 42_link_interface.md R90 and R94 leave BUF unspecified after them, and 93_implementation_defined.md
I5 and I7 give it any value. -/
def Obligations.OnlyAcceptedDataWritesTheBuffer : Prop :=
  ∀ s t : State, step s = .next t →
    (∀ b, s.takeEdge.1 = some (.feed b) → isData b → s.len ≠ 0#5 →
      ∀ a, t.cell a = if a = s.idx.toNat ∧ a < Config.params.bufCap then b else s.cell a) ∧
    ((∀ b, s.takeEdge.1 = some (.feed b) → isData b → s.len = 0#5) →
      (∀ a, t.cell a = s.cell a) ∧ t.buf = s.buf)

/-- RD_VALID is 1 for exactly the steps that complete a frame (10_state.md R22, 40_frame_synchronizer.md R65, R71): an
attached step fed a DATA byte in a frame, whose advanced cursor equals LEN as 5-bit patterns. -/
def Obligations.ValidExactlyWhenAFrameCompletes : Prop :=
  ∀ s t : State, step s = .next t →
    (t.rdValid = true ↔
      s.link = .attached ∧ ∃ b, s.takeEdge.1 = some (.feed b) ∧ isData b ∧ s.len ≠ 0#5 ∧
        (incrIdx s.idx).zeroExtend 5 = s.len)

/-- A delivered Reading is safe from later bytes (20_memory.md R42, the spec's own decision D7): RD_COUNT and RD_CH
change only at the next completion, or at an ATTACH or DETACH, which leave them unspecified (10_state.md R28). The rules
R22 and R42 say so, and 93_implementation_defined.md I3 says that both registers hold any value while RD_VALID is 0 and
that a claim about them must not be provable: that the rules are followed is the model's choice (DESIGN CHOICE, log
entry 19), and this statement rests on it. -/
def Obligations.OutputRegistersHeldUntilNextCompletion : Prop :=
  ∀ s t : State, step s = .next t → t.rdValid = false →
    s.takeEdge.1 ≠ some .attach → s.takeEdge.1 ≠ some .detach → t.rdCount = s.rdCount ∧ t.rdCh = s.rdCh

/-- The Reading that a command hands to the sink is the one that the output registers show after the step, and it has
at most six channels (42_link_interface.md R92, R93, the spec's own decision D6). -/
def Obligations.EmittedReadingIsOnTheOutputRegisters : Prop :=
  ∀ (p : Config.Params) (c : Cmd) (s t : State) (out : Option Reading), transact p c s = .next (t, out) →
    t.reading? = out ∧ (t.rdValid = true ↔ out.isSome) ∧
    ∀ r, out = some r → r.n = t.rdCount.toNat ∧ r.ch.length = r.n ∧ r.n ≤ Config.MAX_CH

/-- A channel value is always in 0x00..0xEF (30_encoding.md R60, 41_frame_decoder.md R82), from every state that meets
the invariant. -/
def Obligations.ChannelValuesAreDataBytes : Prop :=
  ∀ (s t : State) (r : Reading), Inv s → step s = .next t → t.reading? = some r → ∀ c ∈ r.ch, c.toNat ≤ 0xEF

/-- The decoder reads only cells that have been written (20_memory.md R34, a derivation of the spec): every channel of
a completed frame is the byte listed in its cell, not a free value. -/
def Obligations.DecoderReadsWrittenCells : Prop :=
  ∀ (s t : State) (r : Reading), Inv s → step s = .next t → t.reading? = some r →
    ∀ k, 1 ≤ k → k ≤ r.n → ∃ b, r.ch[k - 1]? = some b ∧ t.buf.read? k = some b

/-- Two states that look the same to the sink give the same observations for ever (10_state.md R14, R20, R27; 41_frame_decoder.md
R85): PHASE is never read, and no Reading depends on the button cell, on stale or unwritten cells, on output registers
that are not valid, or on the free values. -/
def Obligations.UnobservableStateStaysUnobservable : Prop :=
  ∀ (s t : State) (k : Nat), SameView s t → observe step k s = observe step k t

/-- Every BUF_CAP in 7..15 gives the same observations (00_scope.md R7, a derivation of the spec). -/
def Obligations.BufferCapacityIsUnobservable : Prop :=
  ∀ (p q : Config.Params) (k : Nat) (s : State), p.wellFormed = true → q.wellFormed = true →
    observe (stepWith p) k s = observe (stepWith q) k s

/-- The registers compute what the source's algorithm computes over plain integers, with an unbounded cursor and
buffer (10_state.md R16, R18; 30_encoding.md R54; 41_frame_decoder.md R81; all derivations of the spec, with its
decision D3 on L = 0): from an attached state with no frame active, on every byte stream. -/
def Obligations.RegistersRefineTheSourceAlgorithm : Prop :=
  ∀ (s : State) (bs : List Byte), s.link = .attached → s.len = 0#5 →
    observe step bs.length (s.withBytes bs) = ⟨SourceSync.readings bs ⟨0, []⟩, .running⟩

/-- The transaction form is the port form with idle cycles removed (42_link_interface.md R93, R97). -/
def Obligations.IdleCyclesAreUnobservable : Prop :=
  ∀ (es : List Pins) (s : State),
    observe step es.length (s.withInput es) = observeCmds Config.params (es.filterMap Pins.command) s

/-- A gap changes nothing but RD_VALID, however long (60_exceptions.md R109; 42_link_interface.md R97; R113): a frame
in progress stays in progress. That RD_COUNT and RD_CH are kept, over 93_implementation_defined.md I3, is the model's
choice (log entry 19). -/
def Obligations.GapKeepsTheFrameInProgress : Prop :=
  ∀ (es rest : List Pins) (s : State), es ≠ [] → (∀ e ∈ es, e.command = none) →
    ∃ t, Host.Core.run Sys2Proof.core es.length (s.withInput (es ++ rest)) = .next t ∧
      t.rdValid = false ∧ t.input = rest ∧ t.link = s.link ∧ t.phase = s.phase ∧ t.len = s.len ∧ t.idx = s.idx ∧
      t.buf = s.buf ∧ t.rdCount = s.rdCount ∧ t.rdCh = s.rdCh ∧ t.free = s.free

/-! ## Frames -/

/-- Frames give one Reading each (30_encoding.md R58): fed back to back in any attached state, a list of frames
produces exactly the list of their Readings, in order. A frame with L in 2..8 has L-2 channels, equal to its data bytes
2..L-1 in order; one with L in 9..15 has 6 channels and ignores data bytes 8 onward. -/
def Obligations.EachFrameGivesOneReading : Prop :=
  ∀ (s : State) (fs : List (Nibble × List Byte)), s.link = .attached → (∀ f ∈ fs, IsFrame f) →
    observe step (fs.flatMap frameBytes).length (s.withBytes (fs.flatMap frameBytes)) =
      ⟨fs.map fun f => ⟨min (f.1.toNat - 2) 6, (f.2.drop 1).take 6⟩, .running⟩

/-- A frame cut short by a SYNC byte gives no Reading, and the new frame starts with the new length (40_frame_synchronizer.md
R73, a derivation of the spec). -/
def Obligations.TruncatedFrameGivesNoReading : Prop :=
  ∀ (s : State) (L M : Nibble) (ds : List Byte), s.link = .attached → (∀ d ∈ ds, isData d) →
    ds.length + 1 < L.toNat →
    observe step (ds.length + 2) (s.withBytes (syncByte L :: ds ++ [syncByte M])) = ⟨[], .running⟩ ∧
    ∃ t, Host.Core.run Sys2Proof.core (ds.length + 2) (s.withBytes (syncByte L :: ds ++ [syncByte M])) = .next t ∧
      t.len = declaredLength M ∧ t.idx = 0#4 ∧ t.rdValid = false

/-- Without a SYNC byte no Reading ever appears (70_reset_and_hazards.md R123, 40_frame_synchronizer.md R75, derivations of
the spec): while no frame is active every DATA byte is discarded, and still none is active afterwards. -/
def Obligations.NoiseGivesNoReading : Prop :=
  ∀ (s : State) (ds : List Byte), s.link = .attached → s.len = 0#5 → (∀ d ∈ ds, isData d) →
    observe step ds.length (s.withBytes ds) = ⟨[], .running⟩ ∧
    ∃ t, Host.Core.run Sys2Proof.core ds.length (s.withBytes ds) = .next t ∧
      t.link = .attached ∧ t.len = 0#5 ∧ t.idx = s.idx ∧ t.phase = s.phase ∧ t.buf = s.buf

/-- The length fields 0 and 1 (40_frame_synchronizer.md R78, R79): no Reading follows, however many DATA bytes do. For
L = 0, LEN stays -1 and IDX counts up to 15 and stays there; that this frame never completes is the spec's own
decision D3 (log entry 10). For L = 1 the block stays IDLE with LEN and IDX 0. -/
def Obligations.LengthZeroAndOneGiveNoReading : Prop :=
  ∀ (s : State) (L : Nibble) (ds : List Byte), s.link = .attached → L.toNat ≤ 1 → (∀ d ∈ ds, isData d) →
    observe step (ds.length + 1) (s.withBytes (syncByte L :: ds)) = ⟨[], .running⟩ ∧
    ∃ t, Host.Core.run Sys2Proof.core (ds.length + 1) (s.withBytes (syncByte L :: ds)) = .next t ∧
      (L = 0#4 → t.len = 31#5 ∧ t.phase = .inFrame ∧ t.idx.toNat = min ds.length 15) ∧
      (L = 1#4 → t.len = 0#5 ∧ t.phase = .idle ∧ t.idx = 0#4)

/-- A SYNC byte and an ATTACH forget what came before (40_frame_synchronizer.md R74; 42_link_interface.md R90): from
any two attached states the same stream after a SYNC byte, and from any two states the same ports after an ATTACH,
give the same observations. -/
def Obligations.SyncAndAttachForgetThePast : Prop :=
  (∀ (s t : State) (L : Nibble) (bs : List Byte), s.link = .attached → t.link = .attached →
    observe step (bs.length + 1) (s.withBytes (syncByte L :: bs)) =
      observe step (bs.length + 1) (t.withBytes (syncByte L :: bs))) ∧
  (∀ (s t : State) (e : Pins) (es : List Pins), e.rst = true →
    observe step (es.length + 1) (s.withInput (e :: es)) = observe step (es.length + 1) (t.withInput (e :: es)))
end

