-- ==== Sys2Proof/Laws/State.lean ====
section
/-! SUPPORT. One lemma per field per update of State: what each update writes, and that it leaves the rest. -/

namespace Sys2Proof.Machine

@[simp] theorem setValid_link (v : Bool) (s : State) : (s.setValid v).link = s.link := rfl
@[simp] theorem setValid_phase (v : Bool) (s : State) : (s.setValid v).phase = s.phase := rfl
@[simp] theorem setValid_len (v : Bool) (s : State) : (s.setValid v).len = s.len := rfl
@[simp] theorem setValid_idx (v : Bool) (s : State) : (s.setValid v).idx = s.idx := rfl
@[simp] theorem setValid_buf (v : Bool) (s : State) : (s.setValid v).buf = s.buf := rfl
@[simp] theorem setValid_rdValid (v : Bool) (s : State) : (s.setValid v).rdValid = v := rfl
@[simp] theorem setValid_rdCount (v : Bool) (s : State) : (s.setValid v).rdCount = s.rdCount := rfl
@[simp] theorem setValid_rdCh (v : Bool) (s : State) : (s.setValid v).rdCh = s.rdCh := rfl
@[simp] theorem setValid_input (v : Bool) (s : State) : (s.setValid v).input = s.input := rfl
@[simp] theorem setValid_free (v : Bool) (s : State) : (s.setValid v).free = s.free := rfl

@[simp] theorem startFrame_link (L : Nibble) (s : State) : (startFrame L s).link = s.link := rfl
@[simp] theorem startFrame_phase (L : Nibble) (s : State) : (startFrame L s).phase = phaseOfLength (declaredLength L) := rfl
@[simp] theorem startFrame_len (L : Nibble) (s : State) : (startFrame L s).len = declaredLength L := rfl
@[simp] theorem startFrame_idx (L : Nibble) (s : State) : (startFrame L s).idx = 0#4 := rfl
@[simp] theorem startFrame_buf (L : Nibble) (s : State) : (startFrame L s).buf = s.buf := rfl
@[simp] theorem startFrame_rdValid (L : Nibble) (s : State) : (startFrame L s).rdValid = s.rdValid := rfl
@[simp] theorem startFrame_rdCount (L : Nibble) (s : State) : (startFrame L s).rdCount = s.rdCount := rfl
@[simp] theorem startFrame_rdCh (L : Nibble) (s : State) : (startFrame L s).rdCh = s.rdCh := rfl
@[simp] theorem startFrame_input (L : Nibble) (s : State) : (startFrame L s).input = s.input := rfl
@[simp] theorem startFrame_free (L : Nibble) (s : State) : (startFrame L s).free = s.free := rfl

@[simp] theorem accumulate_link (p : Config.Params) (b : Byte) (s : State) : (accumulate p b s).link = s.link := rfl
@[simp] theorem accumulate_phase (p : Config.Params) (b : Byte) (s : State) : (accumulate p b s).phase = s.phase := rfl
@[simp] theorem accumulate_len (p : Config.Params) (b : Byte) (s : State) : (accumulate p b s).len = s.len := rfl
@[simp] theorem accumulate_idx (p : Config.Params) (b : Byte) (s : State) : (accumulate p b s).idx = incrIdx s.idx := rfl
@[simp] theorem accumulate_rdValid (p : Config.Params) (b : Byte) (s : State) : (accumulate p b s).rdValid = s.rdValid := rfl
@[simp] theorem accumulate_rdCount (p : Config.Params) (b : Byte) (s : State) : (accumulate p b s).rdCount = s.rdCount := rfl
@[simp] theorem accumulate_rdCh (p : Config.Params) (b : Byte) (s : State) : (accumulate p b s).rdCh = s.rdCh := rfl
@[simp] theorem accumulate_input (p : Config.Params) (b : Byte) (s : State) : (accumulate p b s).input = s.input := rfl
@[simp] theorem accumulate_free (p : Config.Params) (b : Byte) (s : State) : (accumulate p b s).free = s.free := rfl

@[simp] theorem completeFrame_link (r : Reading) (s : State) : (completeFrame r s).link = s.link := rfl
@[simp] theorem completeFrame_phase (r : Reading) (s : State) : (completeFrame r s).phase = .idle := rfl
@[simp] theorem completeFrame_len (r : Reading) (s : State) : (completeFrame r s).len = 0#5 := rfl
@[simp] theorem completeFrame_idx (r : Reading) (s : State) : (completeFrame r s).idx = 0#4 := rfl
@[simp] theorem completeFrame_buf (r : Reading) (s : State) : (completeFrame r s).buf = s.buf := rfl
@[simp] theorem completeFrame_rdValid (r : Reading) (s : State) : (completeFrame r s).rdValid = s.rdValid := rfl
@[simp] theorem completeFrame_rdCount (r : Reading) (s : State) : (completeFrame r s).rdCount = BitVec.ofNat 3 r.n := rfl
@[simp] theorem completeFrame_rdCh (r : Reading) (s : State) : (completeFrame r s).rdCh = loadChannels r s.free := rfl
@[simp] theorem completeFrame_input (r : Reading) (s : State) : (completeFrame r s).input = s.input := rfl
@[simp] theorem completeFrame_free (r : Reading) (s : State) : (completeFrame r s).free = s.free + 1 := rfl

@[simp] theorem attach_link (s : State) : (attach s).link = .attached := rfl
@[simp] theorem attach_phase (s : State) : (attach s).phase = .awaitSync := rfl
@[simp] theorem attach_len (s : State) : (attach s).len = 0#5 := rfl
@[simp] theorem attach_idx (s : State) : (attach s).idx = 0#4 := rfl
@[simp] theorem attach_buf (s : State) : (attach s).buf = s.buf := rfl
@[simp] theorem attach_rdValid (s : State) : (attach s).rdValid = false := rfl
@[simp] theorem attach_rdCount (s : State) : (attach s).rdCount = Config.freeCount s.free := rfl
@[simp] theorem attach_rdCh (s : State) : (attach s).rdCh = Channels.ofChannel (Config.freeChannel s.free) := rfl
@[simp] theorem attach_input (s : State) : (attach s).input = s.input := rfl
@[simp] theorem attach_free (s : State) : (attach s).free = s.free + 1 := rfl

@[simp] theorem release_link (s : State) : (release s).link = .detached := rfl
@[simp] theorem release_phase (s : State) : (release s).phase = Config.freePhase s.free := rfl
@[simp] theorem release_len (s : State) : (release s).len = Config.freeLen s.free := rfl
@[simp] theorem release_idx (s : State) : (release s).idx = Config.freeIdx s.free := rfl
@[simp] theorem release_buf (s : State) : (release s).buf = s.buf := rfl
@[simp] theorem release_rdValid (s : State) : (release s).rdValid = false := rfl
@[simp] theorem release_rdCount (s : State) : (release s).rdCount = Config.freeCount s.free := rfl
@[simp] theorem release_rdCh (s : State) : (release s).rdCh = Channels.ofChannel (Config.freeChannel s.free) := rfl
@[simp] theorem release_input (s : State) : (release s).input = s.input := rfl
@[simp] theorem release_free (s : State) : (release s).free = s.free + 1 := rfl

@[simp] theorem withInput_link (es : List Pins) (s : State) : (s.withInput es).link = s.link := rfl
@[simp] theorem withInput_phase (es : List Pins) (s : State) : (s.withInput es).phase = s.phase := rfl
@[simp] theorem withInput_len (es : List Pins) (s : State) : (s.withInput es).len = s.len := rfl
@[simp] theorem withInput_idx (es : List Pins) (s : State) : (s.withInput es).idx = s.idx := rfl
@[simp] theorem withInput_buf (es : List Pins) (s : State) : (s.withInput es).buf = s.buf := rfl
@[simp] theorem withInput_rdValid (es : List Pins) (s : State) : (s.withInput es).rdValid = s.rdValid := rfl
@[simp] theorem withInput_rdCount (es : List Pins) (s : State) : (s.withInput es).rdCount = s.rdCount := rfl
@[simp] theorem withInput_rdCh (es : List Pins) (s : State) : (s.withInput es).rdCh = s.rdCh := rfl
@[simp] theorem withInput_input (es : List Pins) (s : State) : (s.withInput es).input = es := rfl
@[simp] theorem withInput_free (es : List Pins) (s : State) : (s.withInput es).free = s.free := rfl

/-- The buffer after ACCUMULATE: the cell of the cursor is written while it exists. -/
theorem accumulate_buf (p : Config.Params) (b : Byte) (s : State) : (accumulate p b s).buf =
    if s.idx.toNat < p.bufCap then s.buf.write s.idx.toNat b else s.buf := by
  by_cases h : s.idx.toNat < p.bufCap <;> simp [accumulate, storeIndex, h]

/-- The idle edge is the clearing of RD_VALID. -/
@[simp] theorem idleEdge_eq (s : State) : idleEdge s = s.setValid false := rfl

@[simp] theorem setValid_setValid (v w : Bool) (s : State) : (s.setValid v).setValid w = s.setValid w := rfl

@[simp] theorem withInput_input_self (s : State) : s.withInput s.input = s := rfl

@[simp] theorem withInput_withInput (s : State) (es fs : List Pins) : (s.withInput es).withInput fs = s.withInput fs := rfl

end Sys2Proof.Machine
end

