-- ==== Sys2Proof/Laws/Decode.lean ====
section
/-! SUPPORT. The laws of the decoder and the encoder. -/

namespace Sys2Proof

/-- The decoder's test for SYNC is the byte class function (30_encoding.md R51). -/
theorem mask_eq_iff_highNibble (b : Byte) : b &&& 0xF0#8 = 0xF0#8 ↔ highNibble b = Config.MARKER := by
  revert b
  decide

theorem highNibble_eq_iff_le (b : Byte) : highNibble b = Config.MARKER ↔ 0xF0 ≤ b.toNat := by
  revert b
  decide

@[simp] theorem highNibble_syncByte (L : Nibble) : highNibble (Machine.syncByte L) = Config.MARKER := by
  revert L
  decide

@[simp] theorem lowNibble_syncByte (L : Nibble) : lowNibble (Machine.syncByte L) = L := by
  revert L
  decide

theorem decodeByte_sync {b : Byte} (h : highNibble b = Config.MARKER) : decodeByte b = .sync (lowNibble b) := by
  simp [decodeByte, (mask_eq_iff_highNibble b).2 h]

/-- A decoded byte is well-formed: no byte value is illegal (30_encoding.md R59). -/
theorem decodeByte_wellFormed (b : Byte) : (decodeByte b).wellFormed = true := by
  revert b
  decide

/-- Encoding gives back the byte that was decoded: the decoder drops no bit. -/
theorem encode_decodeByte (b : Byte) : encode (decodeByte b) = [b] := by
  revert b
  decide

end Sys2Proof
end

