-- ==== Sys2Proof/Laws/Memory.lean ====
section
/-! SUPPORT. The laws of the frame buffer: read after write, the canonical form, and extensionality. -/

namespace Sys2Proof.Machine

@[simp] theorem Memory.read?_nil (a : Nat) : Memory.read? [] a = none := rfl

/-- Read after write: the written index reads the byte, every other index reads as before. -/
theorem Memory.read?_write (m : Memory) (a : Nat) (b : Byte) (x : Nat) :
    (m.write a b).read? x = if x = a then some b else m.read? x := by
  induction m with
  | nil => simp [Memory.write, Memory.read?, eq_comm]
  | cons c m ih =>
    obtain ⟨y, v⟩ := c
    simp only [Memory.write]
    split
    · simp [Memory.read?, eq_comm]
    · split
      · subst y
        by_cases h : a = x
        · simp [Memory.read?, h]
        · simp [Memory.read?, h, Ne.symm h]
      · simp only [Memory.read?, ih]
        by_cases h : y = x
        · have : x ≠ a := by omega
          simp [h, this]
        · simp [h]

theorem Memory.read?_write_same (m : Memory) (a : Nat) (b : Byte) : (m.write a b).read? a = some b := by
  simp [Memory.read?_write]

theorem Memory.read?_write_other (m : Memory) {a x : Nat} (b : Byte) (h : x ≠ a) :
    (m.write a b).read? x = m.read? x := by
  simp [Memory.read?_write, h]

/-- What a write lists was listed before, or is the written cell. -/
theorem Memory.mem_write {m : Memory} {a : Nat} {b : Byte} {c : Host.Cell} (h : c ∈ m.write a b) :
    c = (a, b) ∨ c ∈ m := by
  induction m with
  | nil => simpa [Memory.write] using h
  | cons d m ih =>
    obtain ⟨y, v⟩ := d
    simp only [Memory.write] at h
    split at h
    · simpa using h
    · split at h
      · rcases List.mem_cons.1 h with h | h
        · exact .inl h
        · exact .inr (List.mem_cons_of_mem _ h)
      · rcases List.mem_cons.1 h with h | h
        · exact .inr (h ▸ List.mem_cons_self)
        · exact (ih h).imp_right (List.mem_cons_of_mem _)

/-- A write keeps the canonical form. -/
theorem Memory.wf_write {m : Memory} (h : m.wf) (a : Nat) (b : Byte) : (m.write a b).wf := by
  induction m with
  | nil => simp [Memory.write, Memory.wf]
  | cons c m ih =>
    obtain ⟨y, v⟩ := c
    have hy : ∀ d ∈ m, y < d.1 := (List.pairwise_cons.1 h).1
    have hm : Memory.wf m := (List.pairwise_cons.1 h).2
    simp only [Memory.write]
    split
    · refine List.pairwise_cons.2 ⟨fun d hd => ?_, h⟩
      rcases List.mem_cons.1 hd with hd | hd
      · simpa [hd]
      · have := hy d hd
        simp only
        omega
    · split
      · subst y
        exact List.pairwise_cons.2 ⟨hy, hm⟩
      · refine List.pairwise_cons.2 ⟨fun d hd => ?_, ih hm⟩
        rcases Memory.mem_write hd with hd | hd
        · simp only [hd]
          omega
        · exact hy d hd

theorem Memory.wf_nil : Memory.wf [] := List.Pairwise.nil

/-- A listed byte is an entry of the list. -/
theorem Memory.mem_of_read? {m : Memory} {a : Nat} {b : Byte} (h : m.read? a = some b) : (a, b) ∈ m := by
  induction m with
  | nil => simp at h
  | cons c m ih =>
    obtain ⟨y, v⟩ := c
    simp only [Memory.read?] at h
    split at h
    · simp_all
    · exact List.mem_cons_of_mem _ (ih h)

/-- In canonical form, an entry is what its index reads as. -/
theorem Memory.read?_of_mem {m : Memory} (hw : m.wf) {a : Nat} {b : Byte} (h : (a, b) ∈ m) :
    m.read? a = some b := by
  induction m with
  | nil => simp at h
  | cons c m ih =>
    obtain ⟨y, v⟩ := c
    have hp := List.pairwise_cons.1 hw
    rcases List.mem_cons.1 h with h | h
    · simp only [Prod.mk.injEq] at h
      simp [Memory.read?, h]
    · have := hp.1 _ h
      have hne : y ≠ a := by
        simp only at this
        omega
      simp [Memory.read?, hne, ih hp.2 h]

/-- Equal memories are equal data: canonical lists that read the same everywhere are the same list. -/
theorem Memory.ext_of_wf {m n : Memory} (hm : m.wf) (hn : n.wf) (h : ∀ a, m.read? a = n.read? a) : m = n := by
  have mem_iff : ∀ c, c ∈ m ↔ c ∈ n := fun c => by
    constructor <;> intro hc
    · exact Memory.mem_of_read? ((h c.1).symm.trans (Memory.read?_of_mem hm hc))
    · exact Memory.mem_of_read? ((h c.1).trans (Memory.read?_of_mem hn hc))
  have hnd : ∀ {l : Memory}, l.wf → l.Nodup := fun hl =>
    hl.imp fun {c d} hlt heq => by
      subst heq
      omega
  have hperm : m.Perm n := (List.perm_ext_iff_of_nodup (hnd hm) (hnd hn)).2 mem_iff
  exact hperm.eq_of_pairwise (fun a b _ _ h₁ h₂ => by omega) hm hn

end Sys2Proof.Machine
end

