-- ==== Sys2Proof/Laws/PerInstr.lean ====
section
/-! SUPPORT. The family RoundTrip: for each constructor of Instr, decoding the encoding of a well-formed
instruction gives it back. -/

namespace Sys2Proof.Laws.RoundTrip

/-- The encoding of a well-formed instruction is one byte, which decodes to it. -/
def Statement (i : Instr) : Prop := i.wellFormed = true → ∃ b, encode i = [b] ∧ decodeByte b = i

theorem sync (L : Nibble) : Statement (.sync L) := fun _ =>
  ⟨_, rfl, by revert L; decide⟩

theorem data0 (d : Byte) : Statement (.data0 d) := fun h =>
  ⟨d, rfl, by revert h; revert d; decide⟩

theorem data10 (d : Byte) : Statement (.data10 d) := fun h =>
  ⟨d, rfl, by revert h; revert d; decide⟩

theorem data110 (d : Byte) : Statement (.data110 d) := fun h =>
  ⟨d, rfl, by revert h; revert d; decide⟩

theorem data1110 (d : Byte) : Statement (.data1110 d) := fun h =>
  ⟨d, rfl, by revert h; revert d; decide⟩

end Sys2Proof.Laws.RoundTrip
end

