-- ==== Sys2Proof/Laws/Step.lean ====
section
/-! SUPPORT. One lemma per shared operation that says what it can do: the cursor, the declared length, the decoder's
loop, FEED, ATTACH, DETACH and one step. -/

namespace Sys2Proof.Machine

open Config (Params)

/-- The declared length of every length field (30_encoding.md R54): 31 is the pattern of -1. -/
theorem declaredLength_toNat (L : Nibble) :
    (declaredLength L).toNat = if L.toNat = 0 then 31 else L.toNat - 1 := by
  revert L
  decide

/-- LEN after a SYNC byte is one of the reachable values (10_state.md R16). -/
theorem declaredLength_reachable (L : Nibble) : declaredLength L = 31#5 ∨ (declaredLength L).toNat ≤ 14 := by
  revert L
  decide

theorem declaredLength_eq_zero_iff (L : Nibble) : declaredLength L = 0#5 ↔ L = 1#4 := by
  revert L
  decide

/-- The cursor counts up to 15 and stays there (10_state.md R18). -/
theorem incrIdx_toNat (idx : BitVec 4) : (incrIdx idx).toNat = min (idx.toNat + 1) 15 := by
  revert idx
  decide

/-- An unsigned 4-bit value against a 5-bit pattern, compared as numbers. -/
theorem zeroExtend_eq_iff (x : BitVec 4) (y : BitVec 5) : x.zeroExtend 5 = y ↔ x.toNat = y.toNat := by
  have : x.toNat < 32 := by omega
  simp [← BitVec.toNat_inj, Nat.mod_eq_of_lt this]

/-- The completion test compares the two registers as numbers, since an unsigned IDX never equals the pattern of
-1 (30_encoding.md R55). -/
theorem frameComplete_iff (s : State) : s.frameComplete = true ↔ s.idx.toNat = s.len.toNat := by
  rw [State.frameComplete, beq_iff_eq, zeroExtend_eq_iff]

@[simp] theorem noFrame_iff (s : State) : s.noFrame = true ↔ s.len = 0#5 := by simp [State.noFrame]

/-- A read of a cell depends on the buffer only. -/
theorem cell_congr {s t : State} (h : s.buf = t.buf) (a : Nat) : s.cell a = t.cell a := by
  simp [State.cell, h]

@[simp] theorem cell_setValid (v : Bool) (s : State) (a : Nat) : (s.setValid v).cell a = s.cell a := rfl

@[simp] theorem cell_startFrame (L : Nibble) (s : State) (a : Nat) : (startFrame L s).cell a = s.cell a := rfl

@[simp] theorem cell_completeFrame (r : Reading) (s : State) (a : Nat) : (completeFrame r s).cell a = s.cell a := rfl

@[simp] theorem cell_attach (s : State) (a : Nat) : (attach s).cell a = s.cell a := rfl

@[simp] theorem cell_release (s : State) (a : Nat) : (release s).cell a = s.cell a := rfl

/-- ACCUMULATE writes the cell of the cursor while it exists, and no other (20_memory.md R32). -/
theorem cell_accumulate (p : Params) (b : Byte) (s : State) (a : Nat) :
    (accumulate p b s).cell a = if a = s.idx.toNat ∧ a < p.bufCap then b else s.cell a := by
  unfold State.cell
  rw [accumulate_buf]
  by_cases h : s.idx.toNat < p.bufCap
  · by_cases ha : a = s.idx.toNat
    · simp [h, ha, Memory.read?_write_same]
    · simp [h, ha, Memory.read?_write_other]
  · have : ¬(a = s.idx.toNat ∧ a < p.bufCap) := by omega
    simp [h, this]

/-- The decoder's loop, from index `a` on, keeps the indices below `cnt` (41_frame_decoder.md R80). -/
theorem decodeLoop_range' (s : State) (cnt : Nat) (m : Nat) : ∀ (a : Nat) (ch : List Byte),
    decodeLoop s cnt (List.range' (a + 1) m) ⟨a, ch⟩ =
      ⟨a + min m (cnt - (a + 1)), ch ++ (List.range' (a + 1) (min m (cnt - (a + 1)))).map s.cell⟩ := by
  induction m with
  | zero => simp [decodeLoop]
  | succ m ih =>
    intro a ch
    rw [List.range'_succ, decodeLoop]
    by_cases h : a + 1 < cnt
    · have hm : min (m + 1) (cnt - (a + 1)) = min m (cnt - (a + 2)) + 1 := by omega
      rw [if_pos h, ih, hm, List.range'_succ]
      simp only [Reading.mk.injEq, List.map_cons, List.append_assoc, List.cons_append, List.nil_append, and_true]
      omega
    · have h0 : cnt - (a + 1) = 0 := by omega
      rw [if_neg h, h0]
      -- past `cnt` the loop keeps nothing
      have stop : ∀ (l : List Nat) (r : Reading), (∀ i ∈ l, ¬ i < cnt) → decodeLoop s cnt l r = r := by
        intro l
        induction l with
        | nil => intros; rfl
        | cons i l ihl =>
          intro r hl
          rw [decodeLoop, if_neg (hl i (by simp)), ihl r fun j hj => hl j (by simp [hj])]
      rw [stop _ _ fun i hi => by
        have := (List.mem_range'_1.1 hi).1
        omega]
      simp

/-- The most indices that the decoder's loop runs over: `min(D, MAX_CH)`, none for a negative `D`. -/
def decodeBound (s : State) : Nat := (min s.len.toInt Config.MAX_CH).toNat

theorem decodeBound_le (s : State) : decodeBound s ≤ 6 := by
  unfold decodeBound Config.MAX_CH
  omega

/-- DECODE in closed form (41_frame_decoder.md R80). -/
theorem decodeFrame_eq (s : State) : decodeFrame s =
    ⟨min (decodeBound s) (s.idx.toNat - 1), (List.range' 1 (min (decodeBound s) (s.idx.toNat - 1))).map s.cell⟩ := by
  have := decodeLoop_range' s s.idx.toNat (decodeBound s) 0 []
  simpa [decodeFrame, decodeBound] using this

/-- DECODE at a completion: `n = min(D - 1, MAX_CH)` channels, channel `i` the cell `i` (41_frame_decoder.md R81). -/
theorem decodeFrame_of_complete {s : State} (h : s.idx.toNat = s.len.toNat) :
    decodeFrame s = ⟨min (s.len.toNat - 1) 6, (List.range' 1 (min (s.len.toNat - 1) 6)).map s.cell⟩ := by
  have hb : min (decodeBound s) (s.idx.toNat - 1) = min (s.len.toNat - 1) 6 := by
    have hi := s.idx.isLt
    have : s.len.toInt = s.len.toNat := BitVec.toInt_eq_toNat_of_lt (by omega)
    unfold decodeBound Config.MAX_CH
    omega
  rw [decodeFrame_eq, hb]

/-- A Reading that DECODE makes has its count of channels, at most six. -/
theorem decodeFrame_length (s : State) : (decodeFrame s).ch.length = (decodeFrame s).n ∧ (decodeFrame s).n ≤ 6 := by
  have := decodeBound_le s
  rw [decodeFrame_eq]
  simp only [List.length_map, List.length_range', true_and]
  omega

@[simp] theorem ofChannel_toList (f : Nat → Byte) :
    (Channels.ofChannel f).toList = [f 1, f 2, f 3, f 4, f 5, f 6] := rfl

/-- RD_CH[k] after a completion: the Reading's channel `k`, or a free value above its count. -/
theorem loadChannels_get? (r : Reading) (draw : Nat) {k : Nat} (h1 : 1 ≤ k) (h6 : k ≤ 6) :
    (loadChannels r draw).get? k = some ((r.ch[k - 1]?).getD (Config.freeChannel draw k)) := by
  interval_cases k <;> rfl

/-- The output registers hold the Reading's channels, whatever the free values above them are. -/
theorem loadChannels_take {r : Reading} (hr : r.ch.length = r.n) (h6 : r.n ≤ 6) (draw : Nat) :
    (loadChannels r draw).toList.take r.n = r.ch := by
  obtain ⟨n, ch⟩ := r
  simp only at hr h6
  subst hr
  refine List.ext_getElem (by simp [loadChannels]; omega) fun i h₁ h₂ => ?_
  have hl : i < ch.length := h₂
  have hi : i < 6 := by omega
  interval_cases i <;> simp [loadChannels, hl]

/-- After a completion the output registers show the Reading that was made (42_link_interface.md R93). -/
theorem reading?_completeFrame {r : Reading} (hr : r.ch.length = r.n) (h6 : r.n ≤ 6) (s : State) :
    ((completeFrame r s).setValid true).reading? = some r := by
  have hn : (BitVec.ofNat 3 r.n).toNat = r.n := by
    rw [BitVec.toNat_ofNat]
    omega
  simp [State.reading?, hn, loadChannels_take hr h6]

theorem reading?_of_invalid {s : State} (h : s.rdValid = false) : s.reading? = none := by
  simp [State.reading?, h]

@[simp] theorem reading?_setValid_false (s : State) : (s.setValid false).reading? = none := rfl

@[simp] theorem reading?_attach (s : State) : (attach s).reading? = none := rfl

@[simp] theorem reading?_detach (s : State) : (detach s).reading? = none := by
  unfold detach
  cases s.link <;> rfl

@[simp] theorem whenAttached_attached {s : State} (h : s.link = .attached) (r : FeedResult) :
    whenAttached s r = r := by
  simp [whenAttached, h]

@[simp] theorem whenAttached_detached {s : State} (h : s.link = .detached) (r : FeedResult) :
    whenAttached s r = .refused .feedWhileDetached := by
  simp [whenAttached, h]

@[simp] theorem whenAccepted_of_wellFormed {α : Type} {p : Params} (h : p.wellFormed = true)
    (r : Host.Outcome α Fault Refusal) : whenAccepted p r = r := by
  simp [whenAccepted, h]

@[simp] theorem whenAccepted_of_illFormed {α : Type} {p : Params} (h : p.wellFormed = false)
    (r : Host.Outcome α Fault Refusal) : whenAccepted p r = .refused .bufCapOutOfRange := by
  simp [whenAccepted, h]

/-- The build parameters of the spec are accepted. -/
@[simp] theorem params_wellFormed : Config.params.wellFormed = true := by decide

@[simp] theorem settle_next (t : State) (out : Option Reading) : FeedResult.settle (.next (t, out)) = .next t := rfl

@[simp] theorem settle_finishFeed (s : State) (out : Option Reading) :
    FeedResult.settle (finishFeed s out) = .next (s.setValid out.isSome) := rfl

theorem settle_eq_next {r : FeedResult} {t : State} (h : r.settle = .next t) : ∃ out, r = .next (t, out) := by
  cases r with
  | next x =>
    obtain ⟨u, out⟩ := x
    simp only [settle_next, Host.Outcome.next.injEq] at h
    exact ⟨out, by rw [h]⟩
  | fault => simp [FeedResult.settle] at h
  | refused => simp [FeedResult.settle] at h

/-- FEED of a SYNC byte (40_frame_synchronizer.md R65 branch 1, R67). -/
theorem feed_sync (p : Params) {b : Byte} (h : highNibble b = Config.MARKER) {s : State} (ha : s.link = .attached) :
    feed p b s = .next ((startFrame (lowNibble b) s).setValid false, none) := by
  simp [feed, h, feedSync, ha, finishFeed]

/-- FEED of a DATA byte while no frame is active (40_frame_synchronizer.md R65 branch 2, R68). -/
theorem feed_discard (p : Params) {b : Byte} (h : isData b) {s : State} (ha : s.link = .attached)
    (h0 : s.len = 0#5) : feed p b s = .next (s.setValid false, none) := by
  simp [feed, show highNibble b ≠ Config.MARKER from h, feedData, ha, h0, finishFeed]

theorem feed_data (p : Params) {b : Byte} (h : isData b) (s : State) : feed p b s = feedData p b s := by
  simp [feed, show highNibble b ≠ Config.MARKER from h]

/-- The DATA bytes that are not stuck: LEN is -1 or 1..14, and IDX is not above a LEN of 1..14. -/
def State.frameReachable (s : State) : Prop :=
  s.len ≠ 0#5 ∧ (s.len = 31#5 ∨ s.len.toNat ≤ 14 ∧ s.idx.toNat ≤ s.len.toNat)

theorem feedData_inFrame (p : Params) (b : Byte) {s : State} (ha : s.link = .attached) (hr : s.frameReachable) :
    feedData p b s = dataInFrame p b s := by
  obtain ⟨h0, h⟩ := hr
  have h1 : s.lenUnreachable = false := by
    rcases h with h | h
    · simp [State.lenUnreachable, h]
    · simp [State.lenUnreachable]
      omega
  have h2 : s.idxUnreachable = false := by
    rcases h with h | h
    · simp [State.idxUnreachable, h]
    · simp only [State.idxUnreachable, Bool.and_eq_false_iff, decide_eq_false_iff_not]
      omega
  simp [feedData, ha, h0, State.noFrame, h1, h2]

/-- A DATA byte in frame that does not complete it (40_frame_synchronizer.md R70). -/
theorem dataInFrame_open (p : Params) (b : Byte) {s : State} (h : min (s.idx.toNat + 1) 15 ≠ s.len.toNat) :
    dataInFrame p b s = .next ((accumulate p b s).setValid false, none) := by
  have hc : (accumulate p b s).frameComplete = false := by
    rw [Bool.eq_false_iff, Ne, frameComplete_iff]
    simpa [incrIdx_toNat] using h
  simp [dataInFrame, completeTest, hc, finishFeed]

/-- A DATA byte in frame that completes it (40_frame_synchronizer.md R71). -/
theorem dataInFrame_complete (p : Params) (b : Byte) {s : State} (h : min (s.idx.toNat + 1) 15 = s.len.toNat) :
    dataInFrame p b s =
      .next ((completeFrame (decodeFrame (accumulate p b s)) (accumulate p b s)).setValid true,
        some (decodeFrame (accumulate p b s))) := by
  have hc : (accumulate p b s).frameComplete = true := by
    rw [frameComplete_iff]
    simpa [incrIdx_toNat] using h
  simp [dataInFrame, completeTest, hc, finishFeed]

/-- Everything a FEED can answer. -/
theorem feed_cases (p : Params) (b : Byte) (s : State) :
    (s.link = .detached ∧ feed p b s = .refused .feedWhileDetached) ∨
    (s.link = .attached ∧
      ((highNibble b = Config.MARKER ∧
          feed p b s = .next ((startFrame (lowNibble b) s).setValid false, none)) ∨
       (isData b ∧ s.len = 0#5 ∧ feed p b s = .next (s.setValid false, none)) ∨
       (isData b ∧ s.len ≠ 0#5 ∧ ¬ s.frameReachable ∧
          (feed p b s = .fault .unreachableLen ∨ feed p b s = .fault .unreachableIdx)) ∨
       (isData b ∧ s.frameReachable ∧ min (s.idx.toNat + 1) 15 ≠ s.len.toNat ∧
          feed p b s = .next ((accumulate p b s).setValid false, none)) ∨
       (isData b ∧ s.frameReachable ∧ min (s.idx.toNat + 1) 15 = s.len.toNat ∧
          feed p b s = .next
            ((completeFrame (decodeFrame (accumulate p b s)) (accumulate p b s)).setValid true,
              some (decodeFrame (accumulate p b s)))))) := by
  cases ha : s.link with
  | detached => exact .inl ⟨rfl, by unfold feed feedSync feedData; split <;> simp [ha]⟩
  | attached =>
    refine .inr ⟨rfl, ?_⟩
    by_cases hb : highNibble b = Config.MARKER
    · exact .inl ⟨hb, feed_sync p hb ha⟩
    · refine .inr ?_
      have hd : isData b := hb
      by_cases h0 : s.len = 0#5
      · exact .inl ⟨hd, h0, feed_discard p hd ha h0⟩
      · refine .inr ?_
        by_cases hr : s.frameReachable
        · refine .inr ?_
          rw [feed_data p hd, feedData_inFrame p b ha hr]
          by_cases hc : min (s.idx.toNat + 1) 15 = s.len.toNat
          · exact .inr ⟨hd, hr, hc, dataInFrame_complete p b hc⟩
          · exact .inl ⟨hd, hr, hc, dataInFrame_open p b hc⟩
        · refine .inl ⟨hd, h0, hr, ?_⟩
          rw [feed_data p hd]
          by_cases h1 : s.lenUnreachable = true
          · exact .inl (by simp [feedData, ha, h0, State.noFrame, h1])
          · refine .inr ?_
            have h2 : s.idxUnreachable = true := by
              have h5 := s.len.isLt
              have hz : s.len.toNat ≠ 0 := fun h => h0 (BitVec.eq_of_toNat_eq (by simpa using h))
              have ht : s.len.toNat ≠ 31 := fun h =>
                hr ⟨h0, .inl (BitVec.eq_of_toNat_eq (by simpa using h))⟩
              have hn : ¬(s.len.toNat ≤ 14 ∧ s.idx.toNat ≤ s.len.toNat) := fun h => hr ⟨h0, .inr h⟩
              simp only [State.lenUnreachable, Bool.and_eq_true, decide_eq_true_eq] at h1
              simp only [State.idxUnreachable, Bool.and_eq_true, decide_eq_true_eq]
              omega
            simp [feedData, ha, h0, State.noFrame, h1, h2]

/-- The meaning of a decoded byte is the spec's FEED of the byte (40_frame_synchronizer.md R65). -/
theorem exec_decodeByte (b : Byte) (s : State) : exec (decodeByte b) s = (feed Config.params b s).settle := by
  by_cases h : highNibble b = Config.MARKER
  · simp [decodeByte_sync h, feed, h, exec, execSync]
  · have hm : b &&& 0xF0#8 ≠ 0xF0#8 := fun e => h ((mask_eq_iff_highNibble b).1 e)
    rw [feed_data _ h, decodeByte, if_neg hm]
    split
    · rfl
    · split
      · rfl
      · split <;> rfl

/-- A transaction of an accepted block is the command itself (42_link_interface.md R93). -/
theorem transact_of_wellFormed {p : Params} (h : p.wellFormed = true) (c : Cmd) (s : State) :
    transact p c s =
      match c with
      | .attach => .next (attach s, none)
      | .feed b => feed p b s
      | .detach => .next (detach s, none) := whenAccepted_of_wellFormed h _

/-- A step of an accepted block carries out the command of the edge (42_link_interface.md R97). -/
theorem stepWith_of_wellFormed {p : Params} (h : p.wellFormed = true) (s : State) :
    stepWith p s =
      match s.takeEdge with
      | (none, t) => .next (idleEdge t)
      | (some c, t) => (transact p c t).settle := whenAccepted_of_wellFormed h _

/-- Everything a transaction can answer, by its command and the build parameters (42_link_interface.md R93,
00_scope.md R7). -/
theorem transact_cases (p : Params) (c : Cmd) (s : State) :
    (p.wellFormed = false ∧ transact p c s = .refused .bufCapOutOfRange) ∨
    (p.wellFormed = true ∧
      ((c = .attach ∧ transact p c s = .next (attach s, none)) ∨
       (c = .detach ∧ transact p c s = .next (detach s, none)) ∨
       (∃ b, c = .feed b ∧ transact p c s = feed p b s))) := by
  cases hp : p.wellFormed <;> cases c <;> simp [transact, hp]

/-- Everything a step can do. -/
theorem step_cases (s : State) :
    (s.takeEdge.1 = none ∧ step s = .next (s.takeEdge.2.setValid false)) ∨
    (s.takeEdge.1 = some .attach ∧ step s = .next (attach s.takeEdge.2)) ∨
    (s.takeEdge.1 = some .detach ∧ step s = .next (detach s.takeEdge.2)) ∨
    (∃ b, s.takeEdge.1 = some (.feed b) ∧ step s = (feed Config.params b s.takeEdge.2).settle) := by
  unfold step
  rcases h : s.takeEdge with ⟨c, t⟩
  cases c with
  | none => simp
  | some c =>
    cases c with
    | attach => simp
    | detach => simp
    | feed b => simp [exec_decodeByte]

/-- The sample of the ports is taken, and nothing else of the state changes. -/
theorem takeEdge_state (s : State) : s.takeEdge.2 = s.withInput s.input.tail := by
  unfold State.takeEdge
  split <;> simp_all [State.withInput]
  cases s
  simp_all

@[simp] theorem takeEdge_cons (s : State) (e : Pins) (es : List Pins) :
    (s.withInput (e :: es)).takeEdge = (e.command, s.withInput es) := rfl

@[simp] theorem takeEdge_nil (s : State) : (s.withInput []).takeEdge = (none, s.withInput []) := rfl

@[simp] theorem command_feed (b : Byte) : (Pins.feed b).command = some (.feed b) := rfl

@[simp] theorem command_pins (c : Cmd) : c.pins.command = some c := by
  cases c <;> rfl

/-- DETACH in both cases (42_link_interface.md R94). -/
theorem detach_cases (s : State) :
    (s.link = .attached ∧ detach s = release s) ∨ (s.link = .detached ∧ detach s = s.setValid false) := by
  unfold detach
  cases s.link <;> simp

end Sys2Proof.Machine
end

