-- ==== Sys2Proof/Laws/Run.lean ====
section
/-! SUPPORT. Runs of several steps: how `observe` and the host's `run` take one step, and that a byte's effect does not
depend on the ports' further samples or on RD_VALID. -/

namespace Sys2Proof.Machine

open Config (Params)

theorem observe_succ (next : State → Host.Outcome State Fault Refusal) (k : Nat) (s : State) :
    observe next (k + 1) s =
      match next s with
      | .next t => (observe next k t).after t.reading?
      | .fault r => ⟨[], .stuck r⟩
      | .refused r => ⟨[], .refused r⟩ := rfl

theorem run_next {k : Nat} {s t : State} (h : step s = .next t) :
    Host.Core.run Sys2Proof.core (k + 1) s = Host.Core.run Sys2Proof.core k t := by
  have hs : Sys2Proof.core.step s = .next t := h
  simp only [Host.Core.run, hs]

theorem run_refused {k : Nat} {s : State} {r : Refusal} (h : step s = .refused r) :
    Host.Core.run Sys2Proof.core (k + 1) s = .refused r := by
  have hs : Sys2Proof.core.step s = .refused r := h
  simp only [Host.Core.run, hs]

theorem run_fault {k : Nat} {s : State} {r : Fault} (h : step s = .fault r) :
    Host.Core.run Sys2Proof.core (k + 1) s = .fault r := by
  have hs : Sys2Proof.core.step s = .fault r := h
  simp only [Host.Core.run, hs]

/-- A step whose next byte is offered at the ports is the spec's FEED of that byte. -/
theorem step_feed (s : State) (b : Byte) (es : List Pins) :
    step (s.withInput (Pins.feed b :: es)) = (feed Config.params b (s.withInput es)).settle := by
  rw [← exec_decodeByte]
  rfl

/-- A step at an edge with no command. -/
theorem step_idle (s : State) {e : Pins} (h : e.command = none) (es : List Pins) :
    step (s.withInput (e :: es)) = .next ((s.withInput es).setValid false) := by
  simp [step, h]

/-- A step at an edge with `rst` high. -/
theorem step_attach (s : State) {e : Pins} (h : e.rst = true) (es : List Pins) :
    step (s.withInput (e :: es)) = .next (attach (s.withInput es)) := by
  simp [step, Pins.command, h]

/-- The decoder reads neither the ports nor RD_VALID. -/
theorem decodeFrame_withInput_setValid (s : State) (es : List Pins) (v : Bool) :
    decodeFrame ((s.withInput es).setValid v) = decodeFrame s := by
  have loop : ∀ (cnt : Nat) (l : List Nat) (r : Reading),
      decodeLoop ((s.withInput es).setValid v) cnt l r = decodeLoop s cnt l r := by
    intro cnt l
    induction l with
    | nil => intros; rfl
    | cons i l ih =>
      intro r
      simp only [decodeLoop, ih]
      rfl
  exact loop _ _ _

/-- What a byte does depends neither on the ports' further samples nor on RD_VALID, and keeps the samples. -/
theorem feed_withInput_setValid (p : Params) (b : Byte) (s : State) (es : List Pins) (v : Bool) :
    feed p b ((s.withInput es).setValid v) =
      match feed p b s with
      | .next (t, out) => .next (t.withInput es, out)
      | .fault r => .fault r
      | .refused r => .refused r := by
  have link_eq : ((s.withInput es).setValid v).link = s.link := rfl
  have acc_eq : accumulate p b ((s.withInput es).setValid v) = ((accumulate p b s).withInput es).setValid v := rfl
  cases ha : s.link with
  | detached =>
    have refused : ∀ u : State, u.link = .detached → feed p b u = .refused .feedWhileDetached := fun u hu => by
      unfold feed feedSync feedData
      split <;> simp [hu]
    rw [refused s ha, refused _ (link_eq.trans ha)]
  | attached =>
    by_cases hb : highNibble b = Config.MARKER
    · rw [feed_sync p hb ha, feed_sync p hb (link_eq.trans ha)]
      rfl
    · rw [feed_data p hb, feed_data p hb, feedData, feedData, whenAttached_attached ha,
        whenAttached_attached (link_eq.trans ha)]
      show (if s.noFrame then _ else if s.lenUnreachable then _ else if s.idxUnreachable then _ else _) = _
      split
      · rfl
      · split
        · rfl
        · split
          · rfl
          · by_cases hc : min (s.idx.toNat + 1) 15 = s.len.toNat
            · rw [dataInFrame_complete p b hc,
                dataInFrame_complete p b (s := (s.withInput es).setValid v) hc, acc_eq,
                decodeFrame_withInput_setValid]
              rfl
            · rw [dataInFrame_open p b hc, dataInFrame_open p b (s := (s.withInput es).setValid v) hc, acc_eq]
              rfl

end Sys2Proof.Machine
end

