-- ==== Sys2Proof/Tests/Slice0.lean ====
section
/-! SUPPORT. The model's own tests: the checks of WellFormed, words written out from the patterns of 30_encoding.md R63,
single steps with the results of 95_test_vectors.md (the vector's id stands in the name), and a witness for the
hypotheses of every obligation. -/

namespace Sys2Proof.Tests

open Machine

/-- The cells from an index on. -/
def cellsFrom : Nat → List Byte → Memory
  | _, [] => []
  | a, b :: bs => (a, b) :: cellsFrom (a + 1) bs

/-- A state `(PHASE, LEN, IDX)` of 95_test_vectors.md with the first cells of BUF; LEN -1 is written 31. -/
def stateOf (ph : Phase) (len idx : Nat) (bs : List Byte) : State :=
  { State.reset with phase := ph, len := BitVec.ofNat 5 len, idx := BitVec.ofNat 4 idx, buf := cellsFrom 0 bs }

/-- The outcome is a next state that passes the check. -/
def nextThat (o : Host.Outcome State Fault Refusal) (p : State → Bool) : Bool :=
  match o with
  | .next t => p t
  | _ => false

/-- The outcome is a refusal of a byte while detached. -/
def refusedDetached (o : Host.Outcome State Fault Refusal) : Bool :=
  match o with
  | .refused .feedWhileDetached => true
  | _ => false

/-- `(PHASE, LEN, IDX)` of a state. -/
def at3 (t : State) (ph : Phase) (len idx : Nat) : Bool :=
  t.phase == ph && t.len.toNat == len && t.idx.toNat == idx

/-! ## WellFormed refuses -/

theorem test_wellFormed_refuses_rows :
    [Instr.data0 0x80#8, .data10 0x7F#8, .data10 0xC0#8, .data110 0xBF#8, .data110 0xE0#8, .data1110 0xDF#8,
      .data1110 0xF3#8].all (fun i => !i.wellFormed) = true := by decide

theorem test_wellFormed_refuses_pseudo :
    [Pseudo.sync 16, .data 0xF3, .frame 0xF0 [], .frame 0 [0xF1], .frame 0 (List.replicate 14 0), .noise [0, 0xF0]].all
      (fun p => !p.wellFormed && p.expand.isNone) = true := by decide

theorem test_wellFormed_refuses_capacity :
    [6, 16].all (fun n => !(Config.Params.mk n).wellFormed) = true ∧
    [7, 8, 15].all (fun n => (Config.Params.mk n).wellFormed) = true := by decide

/-! ## Decode -/

theorem test_decode_sync : decodeByte 0b11110110#8 = .sync 6#4 := by decide
theorem test_decode_data0 : decodeByte 0b01010101#8 = .data0 0x55#8 := by decide
theorem test_decode_data10 : decodeByte 0b10101010#8 = .data10 0xAA#8 := by decide
theorem test_decode_data110 : decodeByte 0b11000001#8 = .data110 0xC1#8 := by decide
theorem test_decode_data1110 : decodeByte 0b11101111#8 = .data1110 0xEF#8 := by decide
theorem test_decode_stream_end : decode [] = .error .endOfStream := rfl
theorem test_decodeTableWord : decodeTableWord 8 0xF4 = some (.sync 4#4) ∧ decodeTableWord 8 0x0F = some (.data0 0x0F#8) := by
  decide

/-- The class table V-K1 to V-K10. -/
theorem test_VK : [0x00#8, 0x7F#8, 0x80#8, 0xEF#8, 0x0F#8].all (fun b => byteClass b == .DATA) = true ∧
    [0xF0#8, 0xF1#8, 0xF8#8, 0xFE#8, 0xFF#8].all (fun b => byteClass b == .SYNC) = true := by decide

/-- FRAME 0x00; 0x80, 0x81, 0x82 of program P1. -/
theorem test_P1_frame : (Pseudo.frame 0 [0x80, 0x81, 0x82]).expand =
    some [0xF5#8, 0x00#8, 0x80#8, 0x81#8, 0x82#8] := by decide

/-! ## Single steps -/

theorem test_VS1_sync : nextThat (exec (.sync 4#4) (stateOf .inFrame 5 3 [0x00#8, 0x10#8, 0x20#8]))
    (fun t => at3 t .inFrame 3 0 && t.reading?.isNone) = true := by decide

theorem test_VS5_sync_never_completes : nextThat (exec (.sync 3#4) (stateOf .inFrame 2 1 [0x00#8]))
    (fun t => at3 t .inFrame 2 0 && t.reading?.isNone) = true := by decide

theorem test_VA1_data0_stored : nextThat (exec (.data0 0x00#8) (stateOf .inFrame 5 0 []))
    (fun t => at3 t .inFrame 5 1 && t.buf == [(0, 0x00#8)]) = true := by decide

theorem test_VC1_data0_completes :
    nextThat (exec (.data0 0x40#8) (stateOf .inFrame 5 4 [0x00#8, 0x10#8, 0x20#8, 0x30#8]))
      (fun t => at3 t .idle 0 0 && t.reading? == some ⟨4, [0x10#8, 0x20#8, 0x30#8, 0x40#8]⟩) = true := by decide

theorem test_VD2_data10_discarded : nextThat (exec (.data10 0x83#8) (stateOf .idle 0 0 []))
    (fun t => at3 t .idle 0 0 && t.buf == [] && !t.rdValid) = true := by decide

theorem test_W2_data10_completes : nextThat (exec (.data10 0xAA#8) (stateOf .inFrame 2 1 [0x00#8]))
    (fun t => at3 t .idle 0 0 && t.reading? == some ⟨1, [0xAA#8]⟩) = true := by decide

/-- V-L4 at its last data byte. -/
theorem test_VL4_data110_completes : nextThat (exec (.data110 0xC2#8) (stateOf .inFrame 3 2 [0xC0#8, 0xC1#8]))
    (fun t => t.reading? == some ⟨2, [0xC1#8, 0xC2#8]⟩) = true := by decide

/-- V-L0 at its third data byte. -/
theorem test_VL0_data110_never_completes :
    nextThat (exec (.data110 0xC2#8) (stateOf .inFrame 31 2 [0xC0#8, 0xC1#8]))
      (fun t => at3 t .inFrame 31 3 && t.reading?.isNone) = true := by decide

/-- P3 at its last byte. -/
theorem test_P3_data1110_completes :
    nextThat (exec (.data1110 0xEF#8) (stateOf .inFrame 3 2 [0x00#8, 0xE0#8, 0x44#8]))
      (fun t => t.reading? == some ⟨2, [0xE0#8, 0xEF#8]⟩ && t.buf == [(0, 0x00#8), (1, 0xE0#8), (2, 0xEF#8)]) = true := by
  decide

/-- V-D1: 0xEF before any SYNC. -/
theorem test_VD1_data1110_discarded : nextThat (exec (.data1110 0xEF#8) State.reset)
    (fun t => at3 t .awaitSync 0 0 && t.reading?.isNone) = true := by decide

theorem test_VA2_last_cell :
    nextThat (exec (.data0 0x27#8) (stateOf .inFrame 14 7 [0x00#8, 0x21#8, 0x22#8, 0x23#8, 0x24#8, 0x25#8, 0x26#8]))
      (fun t => at3 t .inFrame 14 8 && t.buf.read? 7 == some 0x27#8) = true := by decide

theorem test_VA3_dropped :
    nextThat (exec (.data0 0x28#8) (stateOf .inFrame 14 8 [0x00#8, 0x21#8])) (fun t =>
      at3 t .inFrame 14 9 && t.buf == [(0, 0x00#8), (1, 0x21#8)]) = true := by decide

theorem test_VA5_saturated : nextThat (exec (.data0 0x44#8) (stateOf .inFrame 31 15 []))
    (fun t => at3 t .inFrame 31 15 && t.buf == []) = true := by decide

theorem test_VC3_completes_past_capacity :
    nextThat (exec (.data0 0x2D#8)
        (stateOf .inFrame 14 13 [0x00#8, 0x21#8, 0x22#8, 0x23#8, 0x24#8, 0x25#8, 0x26#8, 0x27#8]))
      (fun t => t.reading? == some ⟨6, [0x21#8, 0x22#8, 0x23#8, 0x24#8, 0x25#8, 0x26#8]⟩) = true := by decide

/-- V-X7: the button byte and stale cells are not read. -/
theorem test_VX7_decode :
    decodeFrame (stateOf .inFrame 3 3 [0x5A#8, 0x11#8, 0x22#8, 0x99#8, 0x99#8]) = ⟨2, [0x11#8, 0x22#8]⟩ := by decide

theorem test_VI4_powerUp_refuses : refusedDetached (step (State.powerUp.offerByte 0x00#8)) = true := by decide

/-- A capacity of 6 or 16 is refused in the transaction form too (00_scope.md R7). -/
theorem test_transact_refuses_capacity :
    [6, 16].all (fun n => (observeCmds ⟨n⟩ [.attach] State.reset).ending == .refused .bufCapOutOfRange) = true ∧
    [7, 15].all (fun n => (observeCmds ⟨n⟩ [.attach] State.reset).ending == .running) = true := by decide

/-- Edge e6 of the port trace: rst wins and the byte is lost. -/
theorem test_port_e6 :
    nextThat (step ((stateOf .inFrame 2 1 [0x00#8]).withInput [⟨true, false, true, 0x55#8⟩]))
      (fun t => at3 t .awaitSync 0 0 && !t.rdValid && t.input == []) = true := by decide

/-- Edge e3 of the port trace: an idle edge drops out_valid and keeps the rest. -/
theorem test_port_e3 : nextThat (step { stateOf .idle 0 0 [0x00#8] with rdValid := true })
    (fun t => at3 t .idle 0 0 && !t.rdValid) = true := by decide

/-- The first instruction after reset, for a row of each class. -/
theorem test_first_step_after_reset :
    nextThat (step (State.reset.withFetchWord 8 0xF6)) (fun t => at3 t .inFrame 5 0) = true ∧
    nextThat (step (State.reset.withFetchWord 8 0x55)) (fun t => at3 t .awaitSync 0 0) = true := by decide

/-- The axis names by position (41_frame_decoder.md R83). -/
theorem test_axes : (List.range' 1 6).map axisOf =
    [some .primaryVertical, some .primaryHorizontal, some .secondaryVertical, some .secondaryHorizontal,
      some .auxiliaryA, some .auxiliaryB] := by decide

/-! ## Witnesses: states and operands that meet the hypotheses of each obligation, at the ends of their ranges -/

/-- A state in a frame of one channel, at its last data byte. -/
def lastByte : State := (stateOf .inFrame 2 1 [0x00#8]).withBytes [0xAA#8]

theorem lastByte_inv : Inv lastByte := by
  constructor <;> simp [lastByte, stateOf, cellsFrom, State.reset, State.withBytes, State.withInput, Config.params,
    Memory.read?]

theorem reset_inv : Inv State.reset := by
  constructor <;> simp [State.reset]

theorem witness_ByteClassIsTheHighNibbleTest : (0xF0#8 : Byte) ≠ 0xFF#8 ∧
    (0xF0#8 : Byte).extractLsb' 4 4 = (0xFF#8 : Byte).extractLsb' 4 4 := by decide

theorem witness_StreamDecodesToWhatWasEncoded :
    ∀ i ∈ [Instr.sync 15#4, .data0 0x7F#8, .data10 0xBF#8, .data110 0xDF#8, .data1110 0xEF#8], i.wellFormed = true := by
  decide

theorem witness_PseudoOperationsExpandToFrames :
    (Pseudo.frame 0xEF []).wellFormed = true ∧ (Pseudo.frame 0 (List.replicate 13 0xEF)).wellFormed = true ∧
    (Pseudo.noise [0x00, 0xEF]).wellFormed = true := by decide

theorem witness_SyncStartsFrame : State.reset.link = .attached := rfl

theorem witness_DataDiscardedWhileNoFrame : State.reset.link = .attached ∧ State.reset.len = 0#5 := by decide

theorem witness_DataStoredInFrame :
    [stateOf .inFrame 31 0 [], stateOf .inFrame 31 15 [], stateOf .inFrame 2 0 [], stateOf .inFrame 14 7 [],
      stateOf .inFrame 14 8 [], stateOf .inFrame 14 12 []].all (fun s =>
      s.link == .attached && s.len != 0#5 &&
        (s.len == 31#5 || (s.len.toNat ≤ 14 && s.idx.toNat + 1 < s.len.toNat))) = true := by decide

theorem witness_DataStoredInFrame_cells :
    storeIndex Config.params.bufCap (stateOf .inFrame 14 7 []) = some 7 ∧
    storeIndex Config.params.bufCap (stateOf .inFrame 14 8 []) = none := by decide

theorem witness_DataCompletesFrame :
    [stateOf .inFrame 1 0 [], stateOf .inFrame 7 6 [], stateOf .inFrame 8 7 [], stateOf .inFrame 9 8 [],
      stateOf .inFrame 14 13 []].all (fun s =>
      s.link == .attached && s.len != 0#5 && s.len.toNat ≤ 14 && s.idx.toNat + 1 == s.len.toNat) = true := by decide

theorem witness_UnreachableRegistersAreStuck :
    [stateOf .inFrame 15 0 [], stateOf .inFrame 30 0 []].all (fun s =>
      s.link == .attached && 15 ≤ s.len.toNat && s.len.toNat ≤ 30) = true ∧
    [stateOf .inFrame 1 2 [], stateOf .inFrame 14 15 []].all (fun s =>
      s.link == .attached && 1 ≤ s.len.toNat && s.len.toNat ≤ 14 && s.len.toNat < s.idx.toNat) = true := by decide

theorem witness_DetachedByteRefusedForGood : (State.powerUp.offerByte 0xF6#8).link = .detached ∧
    (State.powerUp.offerByte 0xF6#8).takeEdge.1 = some (.feed 0xF6#8) := ⟨rfl, rfl⟩

theorem witness_StepRunsTheDecodedByte :
    (State.reset.offerByte 0xF6#8).input = ⟨false, false, true, 0xF6#8⟩ :: [] ∧
    decode [0xF6#8] = .ok (.sync 6#4, []) := ⟨rfl, rfl⟩

/-- One sample for each clause of the port priority, and none. -/
theorem witness_PortPriorityIsRstDetByte :
    (State.reset.withInput [⟨true, true, true, 0x55#8⟩]).input = [⟨true, true, true, 0x55#8⟩] ∧
    (State.reset.withInput [⟨false, true, true, 0x55#8⟩]).input = [⟨false, true, true, 0x55#8⟩] ∧
    (State.reset.withInput [⟨false, false, true, 0x55#8⟩]).input = [⟨false, false, true, 0x55#8⟩] ∧
    (State.reset.withInput [⟨false, false, false, 0x55#8⟩]).input = [⟨false, false, false, 0x55#8⟩] ∧
    State.reset.input = [] := ⟨rfl, rfl, rfl, rfl, rfl⟩

theorem witness_AttachGivesTheResetState :
    (lastByte.withInput [Cmd.attach.pins]).input = Cmd.attach.pins :: [] ∧ Cmd.attach.pins.rst = true := ⟨rfl, rfl⟩

/-- A DETACH while attached and one while detached. -/
theorem witness_DetachReleasesTheLink :
    (lastByte.withInput [Cmd.detach.pins]).input = Cmd.detach.pins :: [] ∧ Cmd.detach.pins.rst = false ∧
    Cmd.detach.pins.det = true ∧ lastByte.link = .attached ∧
    (State.powerUp.withInput [Cmd.detach.pins]).input = Cmd.detach.pins :: [] ∧
    (State.powerUp.withInput [Cmd.detach.pins]).link = .detached := ⟨rfl, rfl, rfl, rfl, rfl, rfl⟩

theorem witness_StepIsTheFeedDispatch : (6 < 7 ∨ 15 < 6) ∧ (16 < 7 ∨ 15 < 16) := by decide

theorem witness_StepKeepsTheInvariant : Inv lastByte ∧ ∃ t, step lastByte = .next t := ⟨lastByte_inv, _, rfl⟩

/-- An attached state, and a detached one that is offered a byte. -/
theorem witness_NoByteIsIllegal : (Inv lastByte ∧ lastByte.link = .attached) ∧
    Inv ((detach State.reset).withBytes [0x00#8]) ∧ ((detach State.reset).withBytes [0x00#8]).link = .detached := by
  refine ⟨⟨lastByte_inv, rfl⟩, ?_, rfl⟩
  constructor <;> simp [State.withBytes, detach, State.reset]

/-- A step whose byte is stored, one whose byte is dropped, and one with no byte. -/
theorem witness_OnlyAcceptedDataWritesTheBuffer :
    (∃ t, step lastByte = .next t) ∧ lastByte.takeEdge.1 = some (.feed 0xAA#8) ∧ isData 0xAA#8 ∧ lastByte.len ≠ 0#5 ∧
    (∃ t, step ((stateOf .inFrame 14 8 []).withBytes [0x28#8]) = .next t) ∧
    (∃ t, step State.reset = .next t) ∧ State.reset.takeEdge.1 = none :=
  ⟨⟨_, rfl⟩, rfl, by unfold isData; decide, by decide, ⟨_, rfl⟩, ⟨_, rfl⟩, rfl⟩

theorem witness_ValidExactlyWhenAFrameCompletes :
    nextThat (step lastByte) (fun t => t.rdValid) = true ∧
    nextThat (step State.reset) (fun t => !t.rdValid) = true := by decide

theorem witness_OutputRegistersHeldUntilNextCompletion :
    nextThat (step ({ lastByte with rdValid := true }.withBytes [0xF6#8])) (fun t => !t.rdValid) = true ∧
    ({ lastByte with rdValid := true }.withBytes [0xF6#8]).takeEdge.1 = some (.feed 0xF6#8) := by decide

theorem witness_EmittedReadingIsOnTheOutputRegisters :
    ∃ t, transact Config.params (.feed 0xAA#8) lastByte = .next (t, some ⟨1, [0xAA#8]⟩) := ⟨_, rfl⟩

theorem witness_ChannelValuesAreDataBytes :
    Inv lastByte ∧ ∃ t, step lastByte = .next t ∧ t.reading? = some ⟨1, [0xAA#8]⟩ :=
  ⟨lastByte_inv, _, rfl, rfl⟩

/-- The channel range of the Reading is not empty: channel 1 is the byte stored in this step. -/
theorem witness_DecoderReadsWrittenCells :
    Inv lastByte ∧ ∃ t, step lastByte = .next t ∧ t.reading? = some ⟨1, [0xAA#8]⟩ ∧ t.buf.read? 1 = some 0xAA#8 :=
  ⟨lastByte_inv, _, rfl, rfl, rfl⟩

/-- Two different states with one view: PHASE, the button cell, a stale cell and an output register differ. -/
theorem witness_UnobservableStateStaysUnobservable :
    SameView lastByte { lastByte with phase := .idle, buf := [(0, 0x07#8), (5, 0x09#8)], rdCount := 5#3, free := 9 } := by
  refine ⟨rfl, rfl, rfl, fun _ => rfl, fun _ => rfl, fun _ _ k h1 _ h3 => ?_⟩
  have : k < 1 := h3
  omega

theorem witness_BufferCapacityIsUnobservable :
    (Config.Params.mk 7).wellFormed = true ∧ (Config.Params.mk 15).wellFormed = true := by decide

theorem witness_RegistersRefineTheSourceAlgorithm : State.reset.link = .attached ∧ State.reset.len = 0#5 := by decide

theorem witness_GapKeepsTheFrameInProgress :
    [Pins.mk false false false 0xF0#8] ≠ [] ∧
    ∀ e ∈ [Pins.mk false false false 0xF0#8], e.command = none := by decide

theorem witness_EachFrameGivesOneReading :
    IsFrame (2#4, [0x00#8]) ∧ IsFrame (8#4, List.replicate 7 0xEF#8) ∧ IsFrame (15#4, List.replicate 14 0xEF#8) := by
  refine ⟨⟨by decide, by decide, ?_⟩, ⟨by decide, by decide, ?_⟩, ⟨by decide, by decide, ?_⟩⟩ <;>
    unfold isData <;> decide

theorem witness_TruncatedFrameGivesNoReading :
    ([] : List Byte).length + 1 < (2#4 : Nibble).toNat ∧
    (List.replicate 13 0xEF#8).length + 1 < (15#4 : Nibble).toNat ∧ ∀ d ∈ List.replicate 13 0xEF#8, isData d := by
  refine ⟨by decide, by decide, ?_⟩
  unfold isData
  decide

theorem witness_NoiseGivesNoReading : State.reset.link = .attached ∧ State.reset.len = 0#5 ∧
    ∀ d ∈ [0x00#8, 0xEF#8], isData d := by
  refine ⟨rfl, rfl, ?_⟩
  unfold isData
  decide

theorem witness_LengthZeroAndOneGiveNoReading : lastByte.link = .attached ∧
    (0#4 : Nibble).toNat ≤ 1 ∧ (1#4 : Nibble).toNat ≤ 1 ∧ ∀ d ∈ [0x00#8, 0xEF#8], isData d := by
  refine ⟨rfl, by decide, by decide, ?_⟩
  unfold isData
  decide

theorem witness_SyncAndAttachForgetThePast : lastByte.link = .attached ∧ State.reset.link = .attached ∧
    lastByte ≠ State.reset ∧ Cmd.attach.pins.rst = true := by decide

end Sys2Proof.Tests
end

section
/-! Two machines that a relation on states holds together give the same observation. -/

namespace Sys2Proof.Machine

/-- The outcomes of two machines, where the next states stand in `R` and a stop has one reason in both. -/
inductive OutcomeRel (R : State → State → Prop) :
    Host.Outcome State Fault Refusal → Host.Outcome State Fault Refusal → Prop where
  | next {s t : State} (h : R s t) : OutcomeRel R (.next s) (.next t)
  | fault (r : Fault) : OutcomeRel R (.fault r) (.fault r)
  | refused (r : Refusal) : OutcomeRel R (.refused r) (.refused r)

/-- A relation that every step keeps, and whose states show the same Reading, makes the observations equal. -/
theorem observe_eq_of_bisimulation {R : State → State → Prop} {f g : State → Host.Outcome State Fault Refusal}
    (hstep : ∀ {s t}, R s t → OutcomeRel R (f s) (g t)) (hread : ∀ {s t}, R s t → s.reading? = t.reading?)
    (k : Nat) {s t : State} (h : R s t) : observe f k s = observe g k t := by
  induction k generalizing s t with
  | zero => rfl
  | succ k ih =>
    rw [observe_succ, observe_succ]
    have hrel := hstep h
    generalize f s = x at hrel
    generalize g t = y at hrel
    cases hrel with
    | next h' => simp only [ih h', hread h']
    | fault => rfl
    | refused => rfl

end Sys2Proof.Machine
end

section
/-! No BUF_CAP in 7..15 shows (00_scope.md R7): machines of different capacities keep every register and the
cells 0..6 equal, and DECODE reads no other cell. -/

namespace Sys2Proof.Machine

open Config (Params)

/-- `s` with another frame buffer. -/
def State.withBuf (s : State) (m : Memory) : State := { s with buf := m }

/-- The two states differ in no register, and in no cell of BUF that every accepted capacity has and DECODE reads. -/
def SameButSpareCells (s t : State) : Prop :=
  ∃ m, t = s.withBuf m ∧ ∀ a ≤ Config.MAX_CH, (s.withBuf m).cell a = s.cell a

theorem SameButSpareCells.refl (s : State) : SameButSpareCells s s := ⟨s.buf, rfl, fun _ _ => rfl⟩

theorem SameButSpareCells.reading?_eq {s t : State} (h : SameButSpareCells s t) : s.reading? = t.reading? := by
  obtain ⟨m, rfl, -⟩ := h
  rfl

/-- An operation that neither reads nor writes BUF keeps the relation. -/
theorem SameButSpareCells.map (f : State → State) (comm : ∀ s m, f (s.withBuf m) = (f s).withBuf m)
    (keep : ∀ s, (f s).buf = s.buf) {s t : State} (h : SameButSpareCells s t) : SameButSpareCells (f s) (f t) := by
  obtain ⟨m, rfl, hcell⟩ := h
  refine ⟨m, comm s m, fun a ha => ?_⟩
  calc ((f s).withBuf m).cell a = (s.withBuf m).cell a := cell_congr rfl a
    _ = s.cell a := hcell a ha
    _ = (f s).cell a := (cell_congr (keep s) a).symm

theorem SameButSpareCells.setValid (v : Bool) {s t : State} (h : SameButSpareCells s t) :
    SameButSpareCells (s.setValid v) (t.setValid v) := h.map (State.setValid v) (fun _ _ => rfl) fun _ => rfl

theorem SameButSpareCells.startFrame (L : Nibble) {s t : State} (h : SameButSpareCells s t) :
    SameButSpareCells (startFrame L s) (startFrame L t) := h.map (Machine.startFrame L) (fun _ _ => rfl) fun _ => rfl

theorem SameButSpareCells.attach {s t : State} (h : SameButSpareCells s t) :
    SameButSpareCells (attach s) (attach t) := h.map Machine.attach (fun _ _ => rfl) fun _ => rfl

theorem SameButSpareCells.detach {s t : State} (h : SameButSpareCells s t) :
    SameButSpareCells (detach s) (detach t) := by
  refine h.map Machine.detach (fun s m => ?_) fun s => ?_
  · have link : (s.withBuf m).link = s.link := rfl
    unfold Machine.detach
    rw [link]
    cases s.link <;> rfl
  · rcases detach_cases s with ⟨-, h⟩ | ⟨-, h⟩ <;> rw [h] <;> rfl

/-- DECODE reads the cells 1..6 only (41_frame_decoder.md R80). -/
theorem SameButSpareCells.decodeFrame_eq {s t : State} (h : SameButSpareCells s t) :
    decodeFrame s = decodeFrame t := by
  obtain ⟨m, rfl, hcell⟩ := h
  have bound : decodeBound (s.withBuf m) = decodeBound s := rfl
  have idx : (s.withBuf m).idx = s.idx := rfl
  rw [Machine.decodeFrame_eq, Machine.decodeFrame_eq, bound, idx]
  refine congrArg (Reading.mk _) (List.map_congr_left fun a ha => (hcell a ?_).symm)
  have hmem := List.mem_range'_1.1 ha
  have hle := decodeBound_le s
  show a ≤ 6
  omega

theorem SameButSpareCells.completeFrame {s t : State} (h : SameButSpareCells s t) :
    SameButSpareCells (completeFrame (decodeFrame s) s) (completeFrame (decodeFrame t) t) := by
  rw [← h.decodeFrame_eq]
  exact h.map (Machine.completeFrame _) (fun _ _ => rfl) fun _ => rfl

theorem seven_le_bufCap {p : Params} (h : p.wellFormed = true) : 7 ≤ p.bufCap := by
  simp only [Params.wellFormed, Bool.and_eq_true, decide_eq_true_eq] at h
  exact h.1

section
variable {p q : Params} (hp : p.wellFormed = true) (hq : q.wellFormed = true)
include hp hq

/-- Accepted capacities differ in cells above 6 only, so a byte for a cell up to 6 is stored in both machines. -/
theorem SameButSpareCells.accumulate (b : Byte) {s t : State} (h : SameButSpareCells s t) :
    SameButSpareCells (accumulate p b s) (accumulate q b t) := by
  obtain ⟨m, rfl, hcell⟩ := h
  refine ⟨(Machine.accumulate q b (s.withBuf m)).buf, rfl, fun a ha => ?_⟩
  have hap : a < p.bufCap := lt_of_lt_of_le (Nat.lt_succ_of_le ha) (seven_le_bufCap hp)
  have haq : a < q.bufCap := lt_of_lt_of_le (Nat.lt_succ_of_le ha) (seven_le_bufCap hq)
  have idx : (s.withBuf m).idx = s.idx := rfl
  show (Machine.accumulate q b (s.withBuf m)).cell a = (Machine.accumulate p b s).cell a
  simp only [cell_accumulate, hap, haq, idx, hcell a ha]

theorem dataInFrame_rel (b : Byte) {s t : State} (h : SameButSpareCells s t) :
    OutcomeRel SameButSpareCells (dataInFrame p b s).settle (dataInFrame q b t).settle := by
  have hacc := h.accumulate hp hq b
  have same : min (t.idx.toNat + 1) 15 = t.len.toNat ↔ min (s.idx.toNat + 1) 15 = s.len.toNat := by
    obtain ⟨m, rfl, -⟩ := h
    rfl
  by_cases hc : min (s.idx.toNat + 1) 15 = s.len.toNat
  · rw [dataInFrame_complete p b hc, dataInFrame_complete q b (same.2 hc)]
    exact .next (hacc.completeFrame.setValid true)
  · rw [dataInFrame_open p b hc, dataInFrame_open q b (mt same.1 hc)]
    exact .next (hacc.setValid false)

theorem feedData_rel (b : Byte) {s t : State} (h : SameButSpareCells s t) :
    OutcomeRel SameButSpareCells (feedData p b s).settle (feedData q b t).settle := by
  have inFrame := dataInFrame_rel hp hq b h
  have discard := h.setValid false
  obtain ⟨m, rfl, -⟩ := h
  -- the tests of FEED read LINK, LEN and IDX, which the two states share
  have tests : feedData q b (s.withBuf m) = whenAttached s (
      if s.noFrame then finishFeed (s.withBuf m) none
      else if s.lenUnreachable then .fault .unreachableLen
      else if s.idxUnreachable then .fault .unreachableIdx
      else dataInFrame q b (s.withBuf m)) := rfl
  rw [tests, feedData]
  cases ha : s.link with
  | detached =>
    rw [whenAttached_detached ha, whenAttached_detached ha]
    exact .refused _
  | attached =>
    rw [whenAttached_attached ha, whenAttached_attached ha]
    split_ifs
    · exact .next discard
    · exact .fault _
    · exact .fault _
    · exact inFrame

theorem feed_rel (b : Byte) {s t : State} (h : SameButSpareCells s t) :
    OutcomeRel SameButSpareCells (feed p b s).settle (feed q b t).settle := by
  by_cases hb : highNibble b = Config.MARKER
  · have hlink : t.link = s.link := by
      obtain ⟨m, rfl, -⟩ := h
      rfl
    rw [feed, feed, if_pos hb, if_pos hb, feedSync, feedSync]
    cases ha : s.link with
    | detached =>
      rw [whenAttached_detached ha, whenAttached_detached (hlink.trans ha)]
      exact .refused _
    | attached =>
      rw [whenAttached_attached ha, whenAttached_attached (hlink.trans ha)]
      exact .next ((h.startFrame _).setValid false)
  · rw [feed_data p hb, feed_data q hb]
    exact feedData_rel hp hq b h

theorem transact_rel (c : Cmd) {s t : State} (h : SameButSpareCells s t) :
    OutcomeRel SameButSpareCells (transact p c s).settle (transact q c t).settle := by
  rw [transact_of_wellFormed hp, transact_of_wellFormed hq]
  cases c with
  | attach => exact .next h.attach
  | feed b => exact feed_rel hp hq b h
  | detach => exact .next h.detach

end

/-- The two machines see the same command at the next edge. -/
theorem SameButSpareCells.takeEdge {s t : State} (h : SameButSpareCells s t) :
    t.takeEdge.1 = s.takeEdge.1 ∧ SameButSpareCells s.takeEdge.2 t.takeEdge.2 := by
  obtain ⟨m, rfl, hcell⟩ := h
  have input : (s.withBuf m).input = s.input := rfl
  constructor
  · unfold State.takeEdge
    rw [input]
    cases s.input <;> rfl
  · rw [takeEdge_state, takeEdge_state, input]
    exact ⟨m, rfl, hcell⟩

theorem stepWith_rel {p q : Params} (hp : p.wellFormed = true) (hq : q.wellFormed = true) {s t : State}
    (h : SameButSpareCells s t) : OutcomeRel SameButSpareCells (stepWith p s) (stepWith q t) := by
  rw [stepWith_of_wellFormed hp, stepWith_of_wellFormed hq]
  obtain ⟨hcmd, hst⟩ := h.takeEdge
  rcases hs : s.takeEdge with ⟨c, s'⟩
  rcases ht : t.takeEdge with ⟨d, t'⟩
  simp only [hs, ht] at hcmd hst
  subst hcmd
  cases d with
  | none => exact .next (hst.setValid false)
  | some c => exact transact_rel hp hq c hst

/-- Settles O29: every pair of steps keeps the registers and the cells 0..6 equal, and a Reading shows nothing
else. -/
theorem bufferCapacityIsUnobservable : Obligations.BufferCapacityIsUnobservable := by
  intro p q k s hp hq
  exact observe_eq_of_bisimulation (stepWith_rel hp hq) SameButSpareCells.reading?_eq k (.refl s)

end Sys2Proof.Machine
end

section
/-! What a step that answers a next state has done: the transitions of FEED and of one edge, read backwards from the
answer. -/

namespace Sys2Proof.Machine

open Config (Params)

/-- The transitions of FEED on a byte: the next state, and the Reading handed out. -/
inductive FeedNext (p : Params) (b : Byte) (s : State) : State → Option Reading → Prop where
  | sync (hb : highNibble b = Config.MARKER) : FeedNext p b s ((startFrame (lowNibble b) s).setValid false) none
  | discarded (hb : isData b) (h0 : s.len = 0#5) : FeedNext p b s (s.setValid false) none
  | stored (hb : isData b) (hr : s.frameReachable) (hc : min (s.idx.toNat + 1) 15 ≠ s.len.toNat) :
      FeedNext p b s ((accumulate p b s).setValid false) none
  | completed (hb : isData b) (hr : s.frameReachable) (hc : min (s.idx.toNat + 1) 15 = s.len.toNat) :
      FeedNext p b s ((completeFrame (decodeFrame (accumulate p b s)) (accumulate p b s)).setValid true)
        (some (decodeFrame (accumulate p b s)))

/-- A FEED that answers a next state was fed while attached, and took one of the transitions. -/
theorem feed_eq_next {p : Params} {b : Byte} {s t : State} {out : Option Reading}
    (h : feed p b s = .next (t, out)) : s.link = .attached ∧ FeedNext p b s t out := by
  rcases feed_cases p b s with ⟨-, hf⟩ | ⟨ha, ⟨hb, hf⟩ | ⟨hb, h0, hf⟩ | ⟨-, -, -, hf | hf⟩ | ⟨hb, hr, hc, hf⟩ |
      ⟨hb, hr, hc, hf⟩⟩ <;> rw [hf] at h <;> cases h
  · exact ⟨ha, .sync hb⟩
  · exact ⟨ha, .discarded hb h0⟩
  · exact ⟨ha, .stored hb hr hc⟩
  · exact ⟨ha, .completed hb hr hc⟩

/-- The Reading handed out is the one that the output registers show (42_link_interface.md R93). -/
theorem FeedNext.reading?_eq {p : Params} {b : Byte} {s t : State} {out : Option Reading}
    (h : FeedNext p b s t out) : t.reading? = out := by
  cases h with
  | sync | discarded | stored => rfl
  | completed =>
    obtain ⟨hlen, hmax⟩ := decodeFrame_length (accumulate p b s)
    exact reading?_completeFrame hlen hmax _

/-- FEED takes no sample of the ports: its byte was taken at the edge. -/
theorem FeedNext.input_eq {p : Params} {b : Byte} {s t : State} {out : Option Reading}
    (h : FeedNext p b s t out) : t.input = s.input := by
  cases h <;> rfl

/-- The transitions of one edge, by its command, from the state whose sample of the ports has been taken. -/
inductive StepNext (s : State) : State → Prop where
  | idle (hc : s.takeEdge.1 = none) : StepNext s ((s.withInput s.input.tail).setValid false)
  | attach (hc : s.takeEdge.1 = some .attach) : StepNext s (attach (s.withInput s.input.tail))
  | detach (hc : s.takeEdge.1 = some .detach) : StepNext s (detach (s.withInput s.input.tail))
  | feed {b : Byte} {t : State} {out : Option Reading} (hc : s.takeEdge.1 = some (.feed b))
      (ha : s.link = .attached) (hf : FeedNext Config.params b (s.withInput s.input.tail) t out) : StepNext s t

theorem step_eq_next {s t : State} (h : step s = .next t) : StepNext s t := by
  have hcases := step_cases s
  rw [takeEdge_state, h] at hcases
  rcases hcases with ⟨hc, ht⟩ | ⟨hc, ht⟩ | ⟨hc, ht⟩ | ⟨b, hc, ht⟩
  · cases ht; exact .idle hc
  · cases ht; exact .attach hc
  · cases ht; exact .detach hc
  · obtain ⟨out, hf⟩ := settle_eq_next ht.symm
    obtain ⟨ha, hnext⟩ := feed_eq_next hf
    exact .feed hc ha hnext

end Sys2Proof.Machine
end

section
/-! The invariant: reset meets it, and every step keeps it (10_state.md R18, R29). One lemma per operation of a
step, and the steps' lemma assembled from them. -/

namespace Sys2Proof.Machine

open Config (Params)

theorem isData_iff_le (b : Byte) : isData b ↔ b.toNat ≤ 0xEF := by
  rw [isData, Ne, highNibble_eq_iff_le]
  omega

/-- The part of the invariant that speaks of the list of BUF. -/
structure BufInv (m : Memory) : Prop where
  canonical : m.wf
  cells : ∀ c ∈ m, c.1 < Config.params.bufCap ∧ c.2.toNat ≤ 0xEF

theorem Inv.bufInv {s : State} (h : Inv s) : BufInv s.buf := ⟨h.bufCanonical, h.bufCells⟩

/-- A written cell reads as a DATA byte. -/
theorem BufInv.cell_le {s : State} (h : BufInv s.buf) {k : Nat} (hk : (s.buf.read? k).isSome) :
    (s.cell k).toNat ≤ 0xEF := by
  obtain ⟨v, hv⟩ := Option.isSome_iff_exists.1 hk
  have hcell : s.cell k = v := by simp [State.cell, hv]
  rw [hcell]
  exact (h.cells _ (Memory.mem_of_read? hv)).2

/-- ACCUMULATE of a DATA byte keeps the list canonical, in bounds and of DATA bytes. -/
theorem BufInv.accumulate {s : State} (h : BufInv s.buf) {b : Byte} (hb : isData b) :
    BufInv (accumulate Config.params b s).buf := by
  rw [accumulate_buf]
  split
  case isFalse => exact h
  case isTrue hcap =>
    refine ⟨Memory.wf_write h.canonical _ _, fun c hc => ?_⟩
    rcases Memory.mem_write hc with rfl | hc
    · exact ⟨hcap, (isData_iff_le b).1 hb⟩
    · exact h.cells c hc

/-- The cells below the cursor are written, as far as BUF has them (20_memory.md R34). -/
def WrittenBelow (s : State) : Prop :=
  ∀ k, k < s.idx.toNat → k < Config.params.bufCap → (s.buf.read? k).isSome

/-- ACCUMULATE writes the cell that its cursor comes to cover. -/
theorem WrittenBelow.accumulate {s : State} (h : WrittenBelow s) (b : Byte) :
    WrittenBelow (accumulate Config.params b s) := by
  intro k hk hcap
  rw [accumulate_idx, incrIdx_toNat] at hk
  rw [accumulate_buf]
  split
  case isTrue =>
    rw [Memory.read?_write]
    split
    · rfl
    · exact h k (by omega) hcap
  case isFalse => exact h k (by omega) hcap

/-- A state with no frame and no Reading meets the invariant when its buffer does. -/
theorem BufInv.inv_of_noFrame {s : State} (hbuf : BufInv s.buf) (hphase : s.phase ≠ .inFrame) (hlen : s.len = 0#5)
    (hidx : s.idx = 0#4) (hvalid : s.rdValid = false) : Inv s where
  bufCanonical := hbuf.canonical
  bufCells := hbuf.cells
  lenReachable _ := .inr (by simp [hlen])
  phaseInFrame _ := by simp [hphase, hlen]
  idxClear _ _ := hidx
  idxBelow _ h0 := absurd hlen h0
  cellsWritten _ h0 := absurd hlen h0
  validIdle hv := by simp [hvalid] at hv
  validChannels hv := by simp [hvalid] at hv

/-- Settles O19: reset has no frame, no Reading and no listed cell. -/
theorem resetMeetsTheInvariant : Obligations.ResetMeetsTheInvariant :=
  BufInv.inv_of_noFrame (s := State.reset) ⟨Memory.wf_nil, fun _ hc => nomatch hc⟩ (by decide) rfl rfl rfl

theorem Inv.attach {s : State} (h : Inv s) : Inv (attach s) :=
  BufInv.inv_of_noFrame h.bufInv (by simp) rfl rfl rfl

/-- While detached the invariant speaks of BUF and RD_VALID only. -/
theorem BufInv.inv_of_detached {s : State} (hbuf : BufInv s.buf) (hlink : s.link = .detached)
    (hvalid : s.rdValid = false) : Inv s := by
  have notAttached : ¬ s.link = .attached := by simp [hlink]
  have notValid : ¬ s.rdValid = true := by simp [hvalid]
  exact ⟨hbuf.canonical, hbuf.cells, (absurd · notAttached), (absurd · notAttached), (absurd · notAttached),
    (absurd · notAttached), (absurd · notAttached), (absurd · notValid), (absurd · notValid)⟩

theorem Inv.withInput {s : State} (h : Inv s) (es : List Pins) : Inv (s.withInput es) := by
  cases h
  constructor <;> assumption

theorem Inv.setValid_false {s : State} (h : Inv s) : Inv (s.setValid false) where
  bufCanonical := h.bufCanonical
  bufCells := h.bufCells
  lenReachable := h.lenReachable
  phaseInFrame := h.phaseInFrame
  idxClear := h.idxClear
  idxBelow := h.idxBelow
  cellsWritten := h.cellsWritten
  validIdle hv := nomatch hv
  validChannels hv := nomatch hv

theorem Inv.detach {s : State} (h : Inv s) : Inv (detach s) := by
  rcases detach_cases s with ⟨-, hd⟩ | ⟨-, hd⟩ <;> rw [hd]
  · exact BufInv.inv_of_detached h.bufInv rfl rfl
  · exact h.setValid_false

theorem phaseOfLength_eq_inFrame_iff (D : BitVec 5) : phaseOfLength D = .inFrame ↔ D ≠ 0#5 := by
  unfold phaseOfLength
  split <;> simp_all

/-- A SYNC byte leaves LEN reachable, PHASE by its rule, and no cell below the cursor (40_frame_synchronizer.md R67). -/
theorem Inv.startFrame {s : State} (h : Inv s) (L : Nibble) : Inv ((startFrame L s).setValid false) where
  bufCanonical := h.bufCanonical
  bufCells := h.bufCells
  lenReachable _ := declaredLength_reachable L
  phaseInFrame _ := phaseOfLength_eq_inFrame_iff _
  idxClear _ _ := rfl
  idxBelow _ (h0 : declaredLength L ≠ 0#5) _ := by
    show 0 < (declaredLength L).toNat
    exact Nat.pos_of_ne_zero fun hz => h0 (BitVec.eq_of_toNat_eq hz)
  cellsWritten _ _ k hk := absurd hk (Nat.not_lt_zero k)
  validIdle hv := nomatch hv
  validChannels hv := nomatch hv

/-- A DATA byte that does not complete the frame leaves the advanced cursor below a LEN of 1..14, since it was below
before and the two are not equal now. -/
theorem Inv.accumulate {s : State} (h : Inv s) (ha : s.link = .attached) {b : Byte} (hb : isData b)
    (h0 : s.len ≠ 0#5) (hc : min (s.idx.toNat + 1) 15 ≠ s.len.toNat) :
    Inv ((accumulate Config.params b s).setValid false) where
  bufCanonical := (h.bufInv.accumulate hb).canonical
  bufCells := (h.bufInv.accumulate hb).cells
  lenReachable := h.lenReachable
  phaseInFrame := h.phaseInFrame
  idxClear _ hlen := absurd hlen h0
  idxBelow _ _ (hne : s.len ≠ 31#5) := by
    have hbelow := h.idxBelow ha h0 hne
    have hmax := (h.lenReachable ha).resolve_left hne
    simp only [setValid_idx, accumulate_idx, incrIdx_toNat, setValid_len, accumulate_len]
    omega
  cellsWritten _ _ := WrittenBelow.accumulate (h.cellsWritten ha h0) b
  validIdle hv := nomatch hv
  validChannels hv := nomatch hv

/-- DECODE at a completion reads cells below the cursor and below BUF_CAP only, so that every channel is a DATA
byte. -/
theorem decodeFrame_channels_le {s : State} (hbuf : BufInv s.buf) (hw : WrittenBelow s)
    (hc : s.idx.toNat = s.len.toNat) : ∀ c ∈ (decodeFrame s).ch, c.toNat ≤ 0xEF := by
  rw [decodeFrame_of_complete hc]
  intro c hmem
  obtain ⟨k, hk, rfl⟩ := List.mem_map.1 hmem
  have hrange := List.mem_range'_1.1 hk
  refine hbuf.cell_le (hw k (by omega) ?_)
  show k < 8
  omega

/-- A completion clears the frame and shows a Reading of DATA bytes (40_frame_synchronizer.md R71). -/
theorem Inv.complete {s : State} (h : Inv s) (ha : s.link = .attached) {b : Byte} (hb : isData b)
    (h0 : s.len ≠ 0#5) (hc : min (s.idx.toNat + 1) 15 = s.len.toNat) :
    Inv ((completeFrame (decodeFrame (Machine.accumulate Config.params b s))
      (Machine.accumulate Config.params b s)).setValid true) where
  bufCanonical := (h.bufInv.accumulate hb).canonical
  bufCells := (h.bufInv.accumulate hb).cells
  lenReachable _ := .inr (Nat.zero_le _)
  phaseInFrame _ := by simp
  idxClear _ _ := rfl
  idxBelow _ hlen := absurd rfl hlen
  cellsWritten _ hlen := absurd rfl hlen
  validIdle _ := ⟨ha, rfl, rfl, rfl⟩
  validChannels _ := by
    obtain ⟨hlen, hmax⟩ := decodeFrame_length (Machine.accumulate Config.params b s)
    have hcount : (BitVec.ofNat 3 (decodeFrame (Machine.accumulate Config.params b s)).n).toNat =
        (decodeFrame (Machine.accumulate Config.params b s)).n := by
      rw [BitVec.toNat_ofNat]
      omega
    have hcur : (Machine.accumulate Config.params b s).idx.toNat =
        (Machine.accumulate Config.params b s).len.toNat := by
      rwa [accumulate_idx, incrIdx_toNat]
    simp only [setValid_rdCount, completeFrame_rdCount, setValid_rdCh, completeFrame_rdCh, hcount,
      loadChannels_take hlen hmax]
    exact ⟨hmax, decodeFrame_channels_le (h.bufInv.accumulate hb)
      (WrittenBelow.accumulate (h.cellsWritten ha h0) b) hcur⟩

theorem FeedNext.inv {b : Byte} {s t : State} {out : Option Reading} (hf : FeedNext Config.params b s t out)
    (h : Inv s) (ha : s.link = .attached) : Inv t := by
  cases hf with
  | sync => exact h.startFrame _
  | discarded => exact h.setValid_false
  | stored hb hr hc => exact h.accumulate ha hb hr.1 hc
  | completed hb hr hc => exact h.complete ha hb hr.1 hc

/-- Settles O20, by the transitions of a step: each operation keeps the invariant. -/
theorem stepKeepsTheInvariant : Obligations.StepKeepsTheInvariant := by
  intro s t h hstep
  have hin := h.withInput s.input.tail
  cases step_eq_next hstep with
  | idle => exact hin.setValid_false
  | attach => exact hin.attach
  | detach => exact hin.detach
  | feed _ ha hf => exact hf.inv hin ha

end Sys2Proof.Machine
end

section
/-! RD_VALID and the completion (10_state.md R22, 40_frame_synchronizer.md R71). -/

namespace Sys2Proof.Machine

open Config (Params)

@[simp] theorem detach_rdValid (s : State) : (detach s).rdValid = false := by
  rcases detach_cases s with ⟨-, h⟩ | ⟨-, h⟩ <;> rw [h] <;> rfl

/-- Of the transitions of FEED the completion alone sets RD_VALID. -/
theorem FeedNext.rdValid_iff {p : Params} {b : Byte} {s t : State} {out : Option Reading}
    (h : FeedNext p b s t out) :
    t.rdValid = true ↔ isData b ∧ s.len ≠ 0#5 ∧ (incrIdx s.idx).zeroExtend 5 = s.len := by
  rw [zeroExtend_eq_iff, incrIdx_toNat]
  cases h with
  | sync hb => simp [isData, hb]
  | discarded hb h0 => simp [h0]
  | stored hb hr hc => simp [hc]
  | completed hb hr hc => simp [hb, hr.1, hc]

/-- Settles O23: RD_VALID is cleared by every edge without a byte, and FEED sets it at a completion only. -/
theorem validExactlyWhenAFrameCompletes : Obligations.ValidExactlyWhenAFrameCompletes := by
  intro s t hstep
  cases step_eq_next hstep with
  | idle hc => simp [hc]
  | attach hc => simp [hc]
  | detach hc => simp [hc]
  | feed hc ha hf =>
    rw [hf.rdValid_iff]
    simp [hc, ha]

end Sys2Proof.Machine
end

section
/-! A DATA byte in a state that no run reaches (93_implementation_defined.md I9). -/

namespace Sys2Proof.Machine

/-- The four rows of DATA have one meaning (40_frame_synchronizer.md R68, R69). -/
theorem exec_dataRow {d : Byte} {i : Instr} (h : i ∈ [Instr.data0 d, .data10 d, .data110 d, .data1110 d])
    (s : State) : exec i s = (feedData Config.params d s).settle := by
  simp only [List.mem_cons, List.not_mem_nil, or_false] at h
  rcases h with rfl | rfl | rfl | rfl <;> rfl

theorem feedData_lenUnreachable (p : Config.Params) (b : Byte) {s : State} (ha : s.link = .attached)
    (h : s.lenUnreachable = true) : feedData p b s = .fault .unreachableLen := by
  have h0 : s.noFrame = false := by
    rw [Bool.eq_false_iff, Ne, noFrame_iff]
    intro h0
    simp [State.lenUnreachable, h0] at h
  simp [feedData, ha, h0, h]

theorem feedData_idxUnreachable (p : Config.Params) (b : Byte) {s : State} (ha : s.link = .attached)
    (h : s.idxUnreachable = true) : feedData p b s = .fault .unreachableIdx := by
  have ⟨⟨hpos, hmax⟩, _⟩ : (1 ≤ s.len.toNat ∧ s.len.toNat ≤ 14) ∧ s.len.toNat < s.idx.toNat := by
    simpa [State.idxUnreachable] using h
  have h0 : s.noFrame = false := by
    rw [Bool.eq_false_iff, Ne, noFrame_iff]
    intro h0
    simp [h0] at hpos
  have hlen : s.lenUnreachable = false := by
    simp only [State.lenUnreachable, Bool.and_eq_false_iff, decide_eq_false_iff_not]
    omega
  simp [feedData, ha, h0, hlen, h]

/-- Settles O11: the ranges of LEN and IDX are the two tests of FEED. -/
theorem unreachableRegistersAreStuck : Obligations.UnreachableRegistersAreStuck := by
  intro d s ha i hi
  rw [exec_dataRow hi]
  constructor
  · intro hmin hmax
    rw [feedData_lenUnreachable _ d ha (by simp [State.lenUnreachable, hmin, hmax])]
    rfl
  · intro hmin hmax hidx
    rw [feedData_idxUnreachable _ d ha (by simp [State.idxUnreachable, hmin, hmax, hidx])]
    rfl

/-- Settles O17: the registers of the reset table are fields of `State.reset`. -/
theorem resetHoldsTheSpecifiedValues : Obligations.ResetHoldsTheSpecifiedValues :=
  ⟨rfl, rfl, rfl, rfl, rfl, rfl⟩

end Sys2Proof.Machine
end

section
/-! What the sink cannot see stays unseen: SameView is kept by every operation of a step, so it is a bisimulation
(10_state.md R14, R20, R27; 41_frame_decoder.md R85). -/

namespace Sys2Proof.Machine

open Config (Params)

/-- Two states with the same ports, LINK, LEN and IDX, and the same channel cells below IDX, of which nothing is
said of a Reading: what a byte of a frame in progress depends on. -/
structure SameFrame (s t : State) : Prop where
  input : s.input = t.input
  link : s.link = t.link
  len : s.len = t.len
  idx : s.idx = t.idx
  cells : ∀ k, 1 ≤ k → k ≤ Config.MAX_CH → k < s.idx.toNat → s.cell k = t.cell k

theorem SameView.sameFrame {s t : State} (h : SameView s t) (ha : s.link = .attached) (h0 : s.len ≠ 0#5) :
    SameFrame s t := ⟨h.input, h.link, h.len ha, h.idx ha, h.cells ha h0⟩

/-- While no Reading is shown, the frame in progress is the whole view. -/
theorem SameFrame.sameView_setValid {s t : State} (h : SameFrame s t) :
    SameView (s.setValid false) (t.setValid false) :=
  ⟨h.input, h.link, rfl, fun _ => h.len, fun _ => h.idx, fun _ _ => h.cells⟩

/-- Every cell up to MAX_CH is stored, so the cell that the cursor comes to cover is the byte in both states. -/
theorem SameFrame.accumulate {s t : State} (h : SameFrame s t) {p : Params} (hp : p.wellFormed = true) (b : Byte) :
    SameFrame (accumulate p b s) (accumulate p b t) where
  input := h.input
  link := h.link
  len := h.len
  idx := congrArg incrIdx h.idx
  cells k h1 hmax hk := by
    have hcap : k < p.bufCap := lt_of_lt_of_le (Nat.lt_succ_of_le hmax) (seven_le_bufCap hp)
    rw [accumulate_idx, incrIdx_toNat] at hk
    simp only [cell_accumulate, hcap, and_true, ← h.idx]
    split
    · rfl
    · exact h.cells k h1 hmax (by omega)

/-- DECODE reads the channel cells below the cursor only (41_frame_decoder.md R80, R85). -/
theorem SameFrame.decodeFrame_eq {s t : State} (h : SameFrame s t) : decodeFrame s = decodeFrame t := by
  have bound : decodeBound t = decodeBound s := by rw [decodeBound, decodeBound, h.len]
  rw [Machine.decodeFrame_eq, Machine.decodeFrame_eq, bound, ← h.idx]
  refine congrArg (Reading.mk _) (List.map_congr_left fun k hk => ?_)
  have hrange := List.mem_range'_1.1 hk
  have hle := decodeBound_le s
  exact h.cells k hrange.1 (show k ≤ 6 by omega) (by omega)

/-- Two states with one view after the frame has been cleared: no cell is below the cursor. -/
theorem sameView_of_len_eq_zero {s t : State} (input : s.input = t.input) (link : s.link = t.link)
    (reading : s.reading? = t.reading?) (hs : s.len = 0#5) (ht : t.len = 0#5) (idx : s.idx = t.idx) : SameView s t :=
  ⟨input, link, reading, fun _ => hs.trans ht.symm, fun _ => idx, fun _ h0 => absurd hs h0⟩

/-- A completion shows one Reading in both states and clears both frames. -/
theorem SameFrame.completeFrame {s t : State} (h : SameFrame s t) :
    SameView ((completeFrame (decodeFrame s) s).setValid true) ((completeFrame (decodeFrame t) t).setValid true) := by
  obtain ⟨hlen, hmax⟩ := decodeFrame_length t
  refine sameView_of_len_eq_zero h.input h.link ?_ rfl rfl rfl
  rw [h.decodeFrame_eq, reading?_completeFrame hlen hmax, reading?_completeFrame hlen hmax]

theorem SameView.attach {s t : State} (h : SameView s t) : SameView (attach s) (attach t) :=
  sameView_of_len_eq_zero h.input rfl rfl rfl rfl rfl

/-- While detached only the ports, LINK and the Reading are in view. -/
theorem sameView_of_detached {s t : State} (input : s.input = t.input) (reading : s.reading? = t.reading?)
    (hs : s.link = .detached) (ht : t.link = .detached) : SameView s t := by
  constructor <;> simp [input, reading, hs, ht]

theorem SameView.setValid_false {s t : State} (h : SameView s t) : SameView (s.setValid false) (t.setValid false) :=
  ⟨h.input, h.link, rfl, h.len, h.idx, h.cells⟩

@[simp] theorem detach_link (s : State) : (detach s).link = .detached := by
  rcases detach_cases s with ⟨-, h⟩ | ⟨ha, h⟩ <;> rw [h]
  · rfl
  · exact ha

@[simp] theorem detach_input (s : State) : (detach s).input = s.input := by
  rcases detach_cases s with ⟨-, h⟩ | ⟨-, h⟩ <;> rw [h] <;> rfl

theorem SameView.detach {s t : State} (h : SameView s t) : SameView (detach s) (detach t) :=
  sameView_of_detached (by simp [h.input]) (by simp) (by simp) (by simp)

/-- A SYNC byte puts the cursor at 0, so that no cell is in view. -/
theorem SameView.startFrame {s t : State} (h : SameView s t) (L : Nibble) :
    SameView ((startFrame L s).setValid false) ((startFrame L t).setValid false) :=
  SameFrame.sameView_setValid ⟨h.input, h.link, rfl, rfl, fun k _ _ hk => absurd hk (Nat.not_lt_zero k)⟩

theorem SameFrame.dataInFrame {s t : State} (h : SameFrame s t) {p : Params} (hp : p.wellFormed = true) (b : Byte) :
    OutcomeRel SameView (dataInFrame p b s).settle (dataInFrame p b t).settle := by
  have hacc := h.accumulate hp b
  by_cases hc : min (s.idx.toNat + 1) 15 = s.len.toNat
  · rw [dataInFrame_complete p b hc, dataInFrame_complete p b (h.idx ▸ h.len ▸ hc)]
    exact .next hacc.completeFrame
  · rw [dataInFrame_open p b hc, dataInFrame_open p b (h.idx ▸ h.len ▸ hc)]
    exact .next hacc.sameView_setValid

/-- The tests of a DATA byte read LINK, LEN and IDX, which are in view while attached. -/
theorem SameView.feedData {s t : State} (h : SameView s t) {p : Params} (hp : p.wellFormed = true) (b : Byte) :
    OutcomeRel SameView (feedData p b s).settle (feedData p b t).settle := by
  rw [Machine.feedData, Machine.feedData]
  cases ha : s.link with
  | detached =>
    rw [whenAttached_detached ha, whenAttached_detached (h.link ▸ ha)]
    exact .refused _
  | attached =>
    rw [whenAttached_attached ha, whenAttached_attached (h.link ▸ ha)]
    have noFrame : t.noFrame = s.noFrame := by rw [State.noFrame, State.noFrame, h.len ha]
    have lenUnreachable : t.lenUnreachable = s.lenUnreachable := by
      rw [State.lenUnreachable, State.lenUnreachable, h.len ha]
    have idxUnreachable : t.idxUnreachable = s.idxUnreachable := by
      rw [State.idxUnreachable, State.idxUnreachable, h.len ha, h.idx ha]
    rw [noFrame, lenUnreachable, idxUnreachable]
    split_ifs with h0
    · exact .next h.setValid_false
    · exact .fault _
    · exact .fault _
    · exact (h.sameFrame ha (mt (noFrame_iff s).2 h0)).dataInFrame hp b

theorem SameView.feed {s t : State} (h : SameView s t) {p : Params} (hp : p.wellFormed = true) (b : Byte) :
    OutcomeRel SameView (feed p b s).settle (feed p b t).settle := by
  by_cases hb : highNibble b = Config.MARKER
  · rw [Machine.feed, Machine.feed, if_pos hb, if_pos hb, feedSync, feedSync]
    cases ha : s.link with
    | detached =>
      rw [whenAttached_detached ha, whenAttached_detached (h.link ▸ ha)]
      exact .refused _
    | attached =>
      rw [whenAttached_attached ha, whenAttached_attached (h.link ▸ ha)]
      exact .next (h.startFrame _)
  · rw [feed_data p hb, feed_data p hb]
    exact h.feedData hp b

theorem SameView.withInput {s t : State} (h : SameView s t) (es : List Pins) :
    SameView (s.withInput es) (t.withInput es) :=
  ⟨rfl, h.link, h.reading, h.len, h.idx, h.cells⟩

/-- The command of an edge is read from the ports alone. -/
theorem takeEdge_command_congr {s t : State} (h : s.input = t.input) : s.takeEdge.1 = t.takeEdge.1 := by
  rw [State.takeEdge, State.takeEdge, h]
  cases t.input <;> rfl

theorem SameView.step {s t : State} (h : SameView s t) : OutcomeRel SameView (step s) (step t) := by
  have hcmd := takeEdge_command_congr h.input
  have hin : SameView s.takeEdge.2 t.takeEdge.2 := by
    rw [takeEdge_state, takeEdge_state, ← h.input]
    exact h.withInput _
  rcases hs : s.takeEdge with ⟨c, s'⟩
  rcases ht : t.takeEdge with ⟨d, t'⟩
  simp only [hs, ht] at hcmd hin
  subst hcmd
  simp only [Machine.step, hs, ht]
  match c with
  | none => exact .next hin.setValid_false
  | some .attach => exact .next hin.attach
  | some .detach => exact .next hin.detach
  | some (.feed b) =>
    simp only [exec_decodeByte]
    exact hin.feed params_wellFormed b

/-- Settles O28: one view stays one view over every step, and shows one Reading. -/
theorem unobservableStateStaysUnobservable : Obligations.UnobservableStateStaysUnobservable :=
  fun _ _ k h => observe_eq_of_bisimulation SameView.step SameView.reading k h

end Sys2Proof.Machine
end

section
/-! The registers refine the source's algorithm over plain integers (10_state.md R16, R18; 30_encoding.md R54, R56;
41_frame_decoder.md R81): a simulation, byte by byte. -/

namespace Sys2Proof.Machine

open Config (Params)

/-! ## The source's algorithm, an equation per case of a byte -/

theorem SourceSync.onByte_sync {b : Byte} (hb : highNibble b = Config.MARKER) (r : SourceSync) :
    r.onByte b = (⟨(b.toNat : Int) - 0xF0 - 1, []⟩, none) :=
  if_pos ((highNibble_eq_iff_le b).1 hb)

section
variable {b : Byte} (hb : isData b) {r : SourceSync}
include hb

theorem SourceSync.onByte_discarded (h0 : r.declared = 0) : r.onByte b = (r, none) := by
  rw [onByte, if_neg (mt (highNibble_eq_iff_le b).2 hb), if_pos h0]

theorem SourceSync.onByte_stored (h0 : r.declared ≠ 0) (hc : (r.received.length : Int) + 1 ≠ r.declared) :
    r.onByte b = (⟨r.declared, r.received ++ [b]⟩, none) := by
  rw [onByte, if_neg (mt (highNibble_eq_iff_le b).2 hb), if_neg h0, if_neg (by simpa using hc)]

theorem SourceSync.onByte_completed (h0 : r.declared ≠ 0) (hc : (r.received.length : Int) + 1 = r.declared) :
    r.onByte b = (⟨0, []⟩,
      some ⟨min (r.declared - 1).toNat 6, ((r.received ++ [b]).drop 1).take 6⟩) := by
  rw [onByte, if_neg (mt (highNibble_eq_iff_le b).2 hb), if_neg h0, if_pos (by simpa using hc)]

end

/-! ## The frame buffer holds the source's list, as far as DECODE reads -/

/-- The cursor counts the bytes `ds` received so far, and the cells up to MAX_CH hold them. -/
structure HoldsBytes (s : State) (ds : List Byte) : Prop where
  count : ds.length = s.idx.toNat
  cells : ∀ k, k ≤ Config.MAX_CH → k < ds.length → ds[k]? = some (s.cell k)

theorem holdsBytes_nil {s : State} (h : s.idx = 0#4) : HoldsBytes s [] :=
  ⟨by simp [h], fun k _ hk => absurd hk (Nat.not_lt_zero k)⟩

/-- ACCUMULATE appends its byte, short of the saturation of the cursor (10_state.md R18). -/
theorem HoldsBytes.accumulate {s : State} {ds : List Byte} (h : HoldsBytes s ds) (hlt : s.idx.toNat < 15)
    {p : Params} (hp : p.wellFormed = true) (b : Byte) : HoldsBytes (accumulate p b s) (ds ++ [b]) where
  count := by
    simp only [List.length_append, List.length_singleton, h.count, accumulate_idx, incrIdx_toNat]
    omega
  cells k hmax hk := by
    have hcap : k < p.bufCap := lt_of_lt_of_le (Nat.lt_succ_of_le hmax) (seven_le_bufCap hp)
    simp only [cell_accumulate, hcap, and_true, ← h.count]
    split
    case isTrue heq => simp [heq]
    case isFalse hne =>
      have hold : k < ds.length := by
        simp only [List.length_append, List.length_singleton] at hk
        omega
      rw [List.getElem?_append_left hold, h.cells k hmax hold]

/-- DECODE at a completion gives the bytes after the first, six at most (41_frame_decoder.md R81). -/
theorem HoldsBytes.decodeFrame_eq {s : State} {ds : List Byte} (h : HoldsBytes s ds)
    (hc : s.idx.toNat = s.len.toNat) :
    decodeFrame s = ⟨min (s.len.toNat - 1) 6, (ds.drop 1).take 6⟩ := by
  rw [decodeFrame_of_complete hc]
  refine congrArg (Reading.mk _) (List.ext_getElem? fun i => ?_)
  have hcount := h.count
  by_cases hi : i < min (s.len.toNat - 1) 6
  · have hcell := h.cells (1 + i) (show 1 + i ≤ 6 by omega) (by omega)
    rw [List.getElem?_map, List.getElem?_range' hi, List.getElem?_take_of_lt (by omega), List.getElem?_drop, hcell]
    simp
  · rw [List.getElem?_eq_none (by simpa only [List.length_map, List.length_range', not_lt] using hi),
      List.getElem?_eq_none]
    simp only [List.length_take, List.length_drop]
    omega

/-! ## The simulation -/

/-- The registers stand for the source's state: LEN is the declared length as an integer, and in a frame that can
complete, BUF and IDX hold the received bytes. In a frame of declared length -1 they need not, since IDX saturates
there (92_eei_decisions.md D3 and D4). -/
structure Refines (s : State) (r : SourceSync) : Prop where
  attached : s.link = .attached
  declared : r.declared = s.len.toInt
  reachable : s.len = 31#5 ∨ s.len.toNat ≤ 14
  inFrame : s.len ≠ 0#5 → s.len ≠ 31#5 → HoldsBytes s r.received ∧ s.idx.toNat < s.len.toNat

/-- What is refined is LINK, LEN, IDX and BUF. -/
theorem Refines.congr {s t : State} {r : SourceSync} (h : Refines s r) (link : t.link = s.link) (len : t.len = s.len)
    (idx : t.idx = s.idx) (buf : t.buf = s.buf) : Refines t r where
  attached := link.trans h.attached
  declared := len ▸ h.declared
  reachable := len ▸ h.reachable
  inFrame h0 hne := by
    obtain ⟨hbytes, hlt⟩ := h.inFrame (len ▸ h0) (len ▸ hne)
    rw [idx, len]
    exact ⟨⟨idx ▸ hbytes.count, fun k hmax hk => cell_congr buf k ▸ hbytes.cells k hmax hk⟩, hlt⟩

theorem refines_of_noFrame {s : State} (ha : s.link = .attached) (h0 : s.len = 0#5) (ds : List Byte) :
    Refines s ⟨0, ds⟩ :=
  ⟨ha, by simp [h0], .inr (by simp [h0]), fun hlen => absurd h0 hlen⟩

theorem declaredLength_toInt_lowNibble {b : Byte} (hb : highNibble b = Config.MARKER) :
    (declaredLength (lowNibble b)).toInt = (b.toNat : Int) - 0xF0 - 1 := by
  revert b
  decide

theorem refines_startFrame {s : State} (ha : s.link = .attached) {b : Byte} (hb : highNibble b = Config.MARKER) :
    Refines ((startFrame (lowNibble b) s).setValid false) ⟨(b.toNat : Int) - 0xF0 - 1, []⟩ where
  attached := ha
  declared := (declaredLength_toInt_lowNibble hb).symm
  reachable := declaredLength_reachable _
  inFrame (h0 : declaredLength (lowNibble b) ≠ 0#5) _ :=
    ⟨holdsBytes_nil rfl, Nat.pos_of_ne_zero fun hz => h0 (BitVec.eq_of_toNat_eq hz)⟩

/-- A reachable LEN as an integer: -1, or its own pattern. -/
theorem Refines.declared_cases {s : State} {r : SourceSync} (h : Refines s r) :
    (s.len = 31#5 ∧ r.declared = -1) ∨ (s.len ≠ 31#5 ∧ s.len.toNat ≤ 14 ∧ r.declared = s.len.toNat) := by
  rcases h.reachable with h31 | hmax
  · exact .inl ⟨h31, by simp [h.declared, h31]⟩
  · have hne : s.len ≠ 31#5 := fun h31 => by simp [h31] at hmax
    exact .inr ⟨hne, hmax, by rw [h.declared, BitVec.toInt_eq_toNat_of_lt (by omega)]⟩

theorem Refines.declared_eq_zero_iff {s : State} {r : SourceSync} (h : Refines s r) :
    r.declared = 0 ↔ s.len = 0#5 := by
  rw [h.declared, ← BitVec.toInt_inj, BitVec.toInt_zero]

/-- In a frame that can complete, a DATA byte does the same in both: the cursor cannot saturate before it reaches a
LEN of at most 14. -/
theorem Refines.dataInFrame {s : State} {r : SourceSync} (h : Refines s r) {b : Byte} (hb : isData b)
    (h0 : s.len ≠ 0#5) :
    ∃ t, dataInFrame Config.params b s = .next (t, (r.onByte b).2) ∧ Refines t (r.onByte b).1 := by
  have hr0 : r.declared ≠ 0 := mt h.declared_eq_zero_iff.1 h0
  rcases h.declared_cases with ⟨h31, hneg⟩ | ⟨hne, hmax, hpos⟩
  · -- a declared length of -1 never completes
    rw [SourceSync.onByte_stored hb hr0 (by omega), dataInFrame_open _ b (by simp [h31]; omega)]
    exact ⟨_, rfl, h.attached, h.declared, h.reachable, fun _ hne => absurd h31 hne⟩
  · obtain ⟨hbytes, hlt⟩ := h.inFrame h0 hne
    have hacc := hbytes.accumulate (by omega) params_wellFormed b
    have hcount := hbytes.count
    by_cases hc : s.idx.toNat + 1 = s.len.toNat
    · have hcur : (accumulate Config.params b s).idx.toNat = (accumulate Config.params b s).len.toNat := by
        rw [accumulate_idx, incrIdx_toNat, accumulate_len]
        omega
      have hn : (r.declared - 1).toNat = s.len.toNat - 1 := by omega
      rw [SourceSync.onByte_completed hb hr0 (by omega), dataInFrame_complete _ b (by omega),
        hacc.decodeFrame_eq hcur, accumulate_len, hn]
      refine ⟨_, rfl, refines_of_noFrame ?_ rfl []⟩
      exact h.attached
    · rw [SourceSync.onByte_stored hb hr0 (by omega), dataInFrame_open _ b (by omega)]
      refine ⟨_, rfl, h.attached, h.declared, h.reachable, fun _ _ => ⟨⟨hacc.count, hacc.cells⟩, ?_⟩⟩
      simp only [setValid_idx, accumulate_idx, incrIdx_toNat, setValid_len, accumulate_len]
      omega

/-- A state that refines the source's is one in which a DATA byte is not stuck. -/
theorem Refines.frameReachable {s : State} {r : SourceSync} (h : Refines s r) (h0 : s.len ≠ 0#5) :
    s.frameReachable := by
  refine ⟨h0, ?_⟩
  rcases h.declared_cases with ⟨h31, -⟩ | ⟨hne, hmax, -⟩
  · exact .inl h31
  · exact .inr ⟨hmax, (h.inFrame h0 hne).2.le⟩

/-- FEED simulates one byte of the source's algorithm, and hands out its Reading. -/
theorem Refines.feed {s : State} {r : SourceSync} (h : Refines s r) (b : Byte) :
    ∃ t, feed Config.params b s = .next (t, (r.onByte b).2) ∧ Refines t (r.onByte b).1 := by
  by_cases hb : highNibble b = Config.MARKER
  · rw [feed_sync _ hb h.attached, SourceSync.onByte_sync hb]
    exact ⟨_, rfl, refines_startFrame h.attached hb⟩
  · by_cases h0 : s.len = 0#5
    · rw [feed_discard _ hb h.attached h0, SourceSync.onByte_discarded hb (h.declared_eq_zero_iff.2 h0)]
      exact ⟨_, rfl, h.congr rfl rfl rfl rfl⟩
    · rw [feed_data _ hb, feedData_inFrame _ b h.attached (h.frameReachable h0)]
      exact h.dataInFrame hb h0

/-- The ports' further samples are no part of what is refined. -/
theorem Refines.withBytes {s : State} {r : SourceSync} (h : Refines s r) (bs : List Byte) :
    Refines (s.withBytes bs) r := h.congr rfl rfl rfl rfl

theorem step_withBytes (s : State) (b : Byte) (bs : List Byte) :
    step (s.withBytes (b :: bs)) = (feed Config.params b (s.withBytes bs)).settle := step_feed s b _

/-- One step on an offered byte: the state with the other bytes still to come, which shows the source's Reading. -/
theorem Refines.step {s : State} {r : SourceSync} (h : Refines s r) (b : Byte) (bs : List Byte) :
    ∃ t, step (s.withBytes (b :: bs)) = .next (t.withBytes bs) ∧
      (t.withBytes bs).reading? = (r.onByte b).2 ∧ Refines t (r.onByte b).1 := by
  obtain ⟨t, hfeed, hrefines⟩ := (h.withBytes bs).feed b
  obtain ⟨-, hnext⟩ := feed_eq_next hfeed
  have hinput : t.withBytes bs = t := by
    rw [State.withBytes, show bs.map Pins.feed = t.input from hnext.input_eq.symm, withInput_input_self]
  refine ⟨t, ?_, ?_, hrefines⟩ <;> rw [hinput]
  · rw [step_withBytes, hfeed, settle_next]
  · exact hnext.reading?_eq

theorem Refines.observe_eq (bs : List Byte) : ∀ {s : State} {r : SourceSync}, Refines s r →
    observe Machine.step bs.length (s.withBytes bs) = ⟨SourceSync.readings bs r, .running⟩ := by
  induction bs with
  | nil => intros; rfl
  | cons b bs ih =>
    intro s r h
    obtain ⟨t, hstep, hreading, hrefines⟩ := h.step b bs
    rw [List.length_cons, observe_succ, hstep]
    simp only [ih hrefines, hreading, Observation.after, SourceSync.readings]

/-- Settles O30, by the simulation from the source's state with no frame. -/
theorem registersRefineTheSourceAlgorithm : Obligations.RegistersRefineTheSourceAlgorithm :=
  fun _ bs ha h0 => (refines_of_noFrame ha h0 []).observe_eq bs

end Sys2Proof.Machine
end

section
/-! What a step does to BUF, and where the channels of a Reading come from (20_memory.md R32, R34, R42). -/

namespace Sys2Proof.Machine

open Config (Params)

@[simp] theorem detach_buf (s : State) : (detach s).buf = s.buf := by
  rcases detach_cases s with ⟨-, h⟩ | ⟨-, h⟩ <;> rw [h] <;> rfl

@[simp] theorem cell_withInput (es : List Pins) (s : State) (a : Nat) : (s.withInput es).cell a = s.cell a := rfl

/-- A DATA byte in a frame is accumulated, whether or not it completes the frame. -/
theorem FeedNext.buf_eq_accumulate {p : Params} {b : Byte} {s t : State} {out : Option Reading}
    (h : FeedNext p b s t out) (hb : isData b) (h0 : s.len ≠ 0#5) : t.buf = (accumulate p b s).buf := by
  cases h with
  | sync hsync => exact absurd hsync hb
  | discarded _ hlen => exact absurd hlen h0
  | stored => rfl
  | completed => rfl

/-- A SYNC byte and a discarded byte leave BUF. -/
theorem FeedNext.buf_eq {p : Params} {b : Byte} {s t : State} {out : Option Reading}
    (h : FeedNext p b s t out) (hb : isData b → s.len = 0#5) : t.buf = s.buf := by
  cases h with
  | sync => rfl
  | discarded => rfl
  | stored hdata hr => exact absurd (hb hdata) hr.1
  | completed hdata hr => exact absurd (hb hdata) hr.1

/-- A step that feeds no DATA byte into a frame leaves BUF. -/
theorem StepNext.buf_eq {s t : State} (h : StepNext s t)
    (hno : ∀ b, s.takeEdge.1 = some (.feed b) → isData b → s.len = 0#5) : t.buf = s.buf := by
  cases h with
  | idle => rfl
  | attach => rfl
  | detach => exact detach_buf _
  | feed hc _ hf => exact hf.buf_eq (hno _ hc)

/-- Settles O22: FEED of a DATA byte in a frame writes BUF by ACCUMULATE, and no other transition writes it. -/
theorem onlyAcceptedDataWritesTheBuffer : Obligations.OnlyAcceptedDataWritesTheBuffer := by
  intro s t hstep
  have hnext := step_eq_next hstep
  refine ⟨fun b hc hb h0 a => ?_, fun hno => ⟨cell_congr (hnext.buf_eq hno), hnext.buf_eq hno⟩⟩
  cases hnext with
  | idle hidle => simp [hidle] at hc
  | attach hattach => simp [hattach] at hc
  | detach hdetach => simp [hdetach] at hc
  | feed hfeed _ hf =>
    obtain rfl : _ = b := by simpa [hfeed] using hc
    rw [cell_congr (hf.buf_eq_accumulate hb h0), cell_accumulate, withInput_idx, cell_withInput]

/-- Of the transitions of FEED the completion alone writes RD_COUNT and RD_CH, and it sets RD_VALID. -/
theorem FeedNext.output_eq {p : Params} {b : Byte} {s t : State} {out : Option Reading}
    (h : FeedNext p b s t out) (hv : t.rdValid = false) : t.rdCount = s.rdCount ∧ t.rdCh = s.rdCh := by
  cases h with
  | sync => exact ⟨rfl, rfl⟩
  | discarded => exact ⟨rfl, rfl⟩
  | stored => exact ⟨rfl, rfl⟩
  | completed => simp at hv

/-- Settles O24: an idle edge and a FEED that completes no frame write neither RD_COUNT nor RD_CH. -/
theorem outputRegistersHeldUntilNextCompletion : Obligations.OutputRegistersHeldUntilNextCompletion := by
  intro s t hstep hv hna hnd
  cases step_eq_next hstep with
  | idle => exact ⟨rfl, rfl⟩
  | attach hc => exact absurd hc hna
  | detach hc => exact absurd hc hnd
  | feed _ _ hf => exact hf.output_eq hv

/-- DECODE at a completion takes channel `k` from cell `k`, which is below the cursor and below BUF_CAP and so has
been written (20_memory.md R34). -/
theorem WrittenBelow.decodeFrame_channel {s : State} (hw : WrittenBelow s) (hc : s.idx.toNat = s.len.toNat)
    {k : Nat} (h1 : 1 ≤ k) (hn : k ≤ (decodeFrame s).n) :
    ∃ b, (decodeFrame s).ch[k - 1]? = some b ∧ s.buf.read? k = some b := by
  rw [decodeFrame_of_complete hc] at hn ⊢
  simp only at hn ⊢
  have hcap : k < Config.params.bufCap := by
    show k < 8
    omega
  obtain ⟨b, hb⟩ := Option.isSome_iff_exists.1 (hw k (by omega) hcap)
  refine ⟨b, ?_, hb⟩
  have hcell : s.cell k = b := by simp [State.cell, hb]
  have hget : (List.range' 1 (min (s.len.toNat - 1) 6))[k - 1]? = some k := by
    rw [List.getElem?_range' (by omega)]
    exact congrArg some (by omega)
  rw [List.getElem?_map, hget, Option.map_some, hcell]

/-- A Reading that FEED hands out from a state that meets the invariant has in channel `k` the byte that BUF lists in
cell `k`. -/
theorem FeedNext.channel_written {b : Byte} {s t : State} {r : Reading} (hf : FeedNext Config.params b s t (some r))
    (h : Inv s) (ha : s.link = .attached) {k : Nat} (h1 : 1 ≤ k) (hn : k ≤ r.n) :
    ∃ c, r.ch[k - 1]? = some c ∧ t.buf.read? k = some c := by
  cases hf with
  | completed _ hr hc =>
    have hcur : (accumulate Config.params b s).idx.toNat = (accumulate Config.params b s).len.toNat := by
      rwa [accumulate_idx, incrIdx_toNat]
    exact (WrittenBelow.accumulate (h.cellsWritten ha hr.1) b).decodeFrame_channel hcur h1 hn

/-- Settles O27: a step that shows a Reading is a completion, whose channels DECODE took from written cells. -/
theorem decoderReadsWrittenCells : Obligations.DecoderReadsWrittenCells := by
  intro s t r h hstep hr k h1 hn
  cases step_eq_next hstep with
  | idle => simp at hr
  | attach => simp at hr
  | detach => simp at hr
  | feed _ ha hf =>
    obtain rfl := hf.reading?_eq.symm.trans hr
    exact hf.channel_written (h.withInput _) ha h1 hn

end Sys2Proof.Machine
end

section
/-! The encoding: bytes, rows and streams (30_encoding.md R51 to R54, R59, R63). -/

namespace Sys2Proof

/-- A well-formed instruction is encoded as one byte, which decodes to it. -/
theorem Instr.decodeByte_encode {i : Instr} (h : i.wellFormed = true) : ∃ b, encode i = [b] ∧ decodeByte b = i := by
  cases i with
  | sync L => exact Laws.RoundTrip.sync L h
  | data0 d => exact Laws.RoundTrip.data0 d h
  | data10 d => exact Laws.RoundTrip.data10 d h
  | data110 d => exact Laws.RoundTrip.data110 d h
  | data1110 d => exact Laws.RoundTrip.data1110 d h

theorem encodeAll_cons (i : Instr) (is : List Instr) : encodeAll (i :: is) = encode i ++ encodeAll is := rfl

theorem decodeAll_cons (b : Byte) (bs : List Byte) : decodeAll (b :: bs) = decodeByte b :: decodeAll bs := rfl

theorem decodeAll_encodeAll (is : List Instr) (h : ∀ i ∈ is, i.wellFormed = true) :
    decodeAll (encodeAll is) = is := by
  induction is with
  | nil => rfl
  | cons i is ih =>
    obtain ⟨hi, his⟩ := List.forall_mem_cons.1 h
    obtain ⟨b, hb, hdecode⟩ := Instr.decodeByte_encode hi
    rw [encodeAll_cons, hb, List.singleton_append, decodeAll_cons, hdecode, ih his]

theorem encodeAll_decodeAll (bs : List Byte) : encodeAll (decodeAll bs) = bs := by
  induction bs with
  | nil => rfl
  | cons b bs ih => rw [decodeAll_cons, encodeAll_cons, encode_decodeByte, ih, List.singleton_append]

theorem decodeAll_wellFormed {bs : List Byte} {i : Instr} (h : i ∈ decodeAll bs) : i.wellFormed = true := by
  obtain ⟨b, -, rfl⟩ := List.mem_map.1 h
  exact decodeByte_wellFormed b

/-- Settles O4, by induction on the list of instructions and on the stream: each byte is one instruction. -/
theorem streamDecodesToWhatWasEncoded : Obligations.StreamDecodesToWhatWasEncoded :=
  ⟨decodeAll_encodeAll, fun bs => ⟨fun _ => decodeAll_wellFormed, encodeAll_decodeAll bs⟩⟩

/-- Settles O1, by running the decoder on each byte. -/
theorem sampleBytesDecodeToTheirRows : Obligations.SampleBytesDecodeToTheirRows :=
  ⟨rfl, rfl, rfl, rfl, rfl, rfl, rfl, rfl, rfl, rfl, rfl⟩

theorem byteClass_eq_SYNC_iff (b : Byte) : byteClass b = .SYNC ↔ highNibble b = Config.MARKER := by
  unfold byteClass
  split <;> simp_all

theorem byteClass_eq_DATA_iff (b : Byte) : byteClass b = .DATA ↔ Machine.isData b := by
  unfold byteClass Machine.isData
  split <;> simp_all

/-- Settles O2: the class tests the high nibble against the marker, which is the mask test and the comparison with
0xF0. -/
theorem byteClassIsTheHighNibbleTest : Obligations.ByteClassIsTheHighNibbleTest := by
  refine ⟨fun b => ?_, fun b c h => ?_, fun b => ?_, fun b => ?_⟩
  · rw [byteClass_eq_SYNC_iff, mask_eq_iff_highNibble]
  · have hnibble : highNibble b = highNibble c := h
    rw [byteClass, byteClass, hnibble]
  · rw [byteClass_eq_SYNC_iff, highNibble_eq_iff_le]
  · rw [byteClass_eq_DATA_iff, Machine.isData_iff_le]

/-- The patterns of the opcode map do not overlap, and leave no byte out (30_encoding.md R63). -/
theorem opcodeRows_admit_one (b : Byte) : (opcodeRows.filter fun r => r.admits b).length = 1 := by
  revert b
  decide

/-- The row of a well-formed instruction admits its byte: the check of a row is its match and mask. -/
theorem Instr.row_admits {i : Instr} (h : i.wellFormed = true) :
    ∃ r, opcodeRows[i.row]? = some r ∧ ∀ b ∈ encode i, r.admits b = true := by
  cases i with
  | sync L => exact ⟨_, rfl, by revert L; decide⟩
  | data0 | data10 | data110 | data1110 => exact ⟨_, rfl, List.forall_mem_singleton.2 h⟩

/-- Settles O3: the decoded instruction is well-formed and its byte is the one decoded, so its row admits that
byte. -/
theorem everyByteMatchesOneRow : Obligations.EveryByteMatchesOneRow := by
  intro b
  obtain ⟨r, hrow, hadmits⟩ := Instr.row_admits (decodeByte_wellFormed b)
  exact ⟨opcodeRows_admit_one b, ⟨r, hrow, hadmits b (by simp [encode_decodeByte])⟩, decodeByte_wellFormed b,
    encode_decodeByte b⟩

theorem declaredLength_toInt (L : Nibble) : (Machine.declaredLength L).toInt = (L.toNat : Int) - 1 := by
  revert L
  decide

/-- Settles O5: the pattern is the definition, and its signed value does not wrap in five bits. -/
theorem declaredLengthIsLMinusOne : Obligations.DeclaredLengthIsLMinusOne :=
  fun L => ⟨rfl, declaredLength_toInt L⟩

end Sys2Proof
end

section
/-! The expansion of the pseudo-operations (30_encoding.md R62). -/

namespace Sys2Proof

open Machine

theorem Pseudo.expand_eq_none_iff (p : Pseudo) : p.expand = none ↔ p.wellFormed = false := by
  cases h : p.wellFormed <;> simp [Pseudo.expand, h]

/-- The SYNC byte of a length field that is written as a number. -/
theorem syncByte_ofNat {L : Nat} (h : L ≤ 15) : syncByte (BitVec.ofNat 4 L) = 0xF0#8 ||| BitVec.ofNat 8 L := by
  have hext : (BitVec.ofNat 4 L).zeroExtend 8 = BitVec.ofNat 8 L := by
    apply BitVec.eq_of_toNat_eq
    simp only [BitVec.truncate_eq_setWidth, BitVec.toNat_setWidth, BitVec.toNat_ofNat]
    omega
  rw [syncByte, hext]

/-- The byte of a DATA value is a DATA byte of that value. -/
theorem ofNat_of_isDataValue {v : Nat} (h : isDataValue v = true) :
    (BitVec.ofNat 8 v).toNat = v ∧ isData (BitVec.ofNat 8 v) := by
  have hle : v ≤ 0xEF := of_decide_eq_true h
  have hnat : (BitVec.ofNat 8 v).toNat = v := by
    rw [BitVec.toNat_ofNat]
    omega
  exact ⟨hnat, by rwa [isData_iff_le, hnat]⟩

/-- The bytes of a list of DATA values are DATA bytes of those values. -/
theorem map_ofNat_of_isDataValue {vs : List Nat} (h : vs.all isDataValue = true) :
    (vs.map (BitVec.ofNat 8)).map BitVec.toNat = vs ∧ ∀ d ∈ vs.map (BitVec.ofNat 8), isData d := by
  have hall := List.all_eq_true.1 h
  constructor
  · rw [List.map_map]
    exact (List.map_congr_left fun v hv => (ofNat_of_isDataValue (hall v hv)).1).trans vs.map_id
  · exact List.forall_mem_map.2 fun v hv => (ofNat_of_isDataValue (hall v hv)).2

/-- Settles O6: each form expands to the bytes of its values, after the SYNC byte of `n + 2` for FRAME. -/
theorem pseudoOperationsExpandToFrames : Obligations.PseudoOperationsExpandToFrames := by
  refine ⟨Pseudo.expand_eq_none_iff, fun btn cs h => ?_, fun vs h => ?_, fun L hL => ?_, fun v hv => ?_⟩
  · obtain ⟨⟨hbtn, hlen⟩, hcs⟩ : (isDataValue btn = true ∧ cs.length ≤ 13) ∧ cs.all isDataValue = true := by
      simpa only [Pseudo.wellFormed, Bool.and_eq_true, decide_eq_true_eq] using h
    have hdata : (btn :: cs).all isDataValue = true := by rw [List.all_cons, hbtn, hcs, Bool.and_true]
    refine ⟨(btn :: cs).map (BitVec.ofNat 8), ?_, map_ofNat_of_isDataValue hdata⟩
    rw [Pseudo.expand, if_pos h, syncByte_ofNat (by omega), List.map_cons]
  · exact ⟨vs.map (BitVec.ofNat 8), if_pos h, map_ofNat_of_isDataValue h⟩
  · have hwf : (Pseudo.sync L).wellFormed = true := decide_eq_true hL
    rw [Pseudo.expand, if_pos hwf, syncByte_ofNat hL]
  · have hdata : isDataValue v = true := decide_eq_true hv
    exact ⟨BitVec.ofNat 8 v, if_pos hdata, ofNat_of_isDataValue hdata⟩

end Sys2Proof
end

section
/-! From the invariant: every byte has an effect, and every channel is a DATA byte (30_encoding.md R59, R60). -/

namespace Sys2Proof.Machine

open Config (Params)

/-- The invariant excludes the stuck states of 93_implementation_defined.md I9. -/
theorem Inv.frameReachable {s : State} (h : Inv s) (ha : s.link = .attached) (h0 : s.len ≠ 0#5) :
    s.frameReachable := by
  refine ⟨h0, ?_⟩
  by_cases h31 : s.len = 31#5
  · exact .inl h31
  · exact .inr ⟨(h.lenReachable ha).resolve_left h31, (h.idxBelow ha h0 h31).le⟩

theorem feedData_discard (p : Params) (b : Byte) {s : State} (ha : s.link = .attached) (h0 : s.len = 0#5) :
    feedData p b s = .next (s.setValid false, none) := by
  rw [feedData, whenAttached_attached ha, if_pos ((noFrame_iff s).2 h0)]
  rfl

theorem feed_detached (p : Params) (b : Byte) {s : State} (hd : s.link = .detached) :
    feed p b s = .refused .feedWhileDetached := by
  rcases feed_cases p b s with ⟨-, hf⟩ | ⟨ha, -⟩
  · exact hf
  · simp [hd] at ha

/-- The arm of a byte of the DATA rows completes, whatever the byte. -/
theorem Inv.feedData_next {s : State} (h : Inv s) (ha : s.link = .attached) (b : Byte) :
    ∃ t, (feedData Config.params b s).settle = .next t := by
  by_cases h0 : s.len = 0#5
  · rw [feedData_discard _ b ha h0]
    exact ⟨_, rfl⟩
  · rw [feedData_inFrame _ b ha (h.frameReachable ha h0)]
    exact ⟨_, rfl⟩

theorem Inv.exec_next {s : State} (h : Inv s) (ha : s.link = .attached) (i : Instr) : ∃ t, exec i s = .next t := by
  cases i with
  | sync L =>
    show ∃ t, (feedSync L s).settle = .next t
    rw [feedSync, whenAttached_attached ha]
    exact ⟨_, rfl⟩
  | data0 d | data10 d | data110 d | data1110 d =>
    rw [exec_dataRow (d := d) (by simp)]
    exact h.feedData_next ha d

/-- Settles O21: an edge without a byte goes on in any state, and a byte runs its instruction while attached. -/
theorem noByteIsIllegal : Obligations.NoByteIsIllegal := by
  intro s h
  refine ⟨h.exec_next, ?_⟩
  have hcases := step_cases s
  rw [takeEdge_state] at hcases
  rcases hcases with ⟨-, hs⟩ | ⟨-, hs⟩ | ⟨-, hs⟩ | ⟨b, hc, hs⟩
  · exact .inl ⟨_, hs⟩
  · exact .inl ⟨_, hs⟩
  · exact .inl ⟨_, hs⟩
  · cases ha : s.link with
    | attached =>
      rw [← exec_decodeByte] at hs
      rw [hs]
      exact .inl ((h.withInput s.input.tail).exec_next ha _)
    | detached =>
      rw [feed_detached _ b (s := s.withInput s.input.tail) ha] at hs
      exact .inr ⟨⟨b, hc⟩, rfl, hs⟩

/-- A Reading is shown while RD_VALID is 1 only, and is the first RD_COUNT channel registers. -/
theorem reading?_eq_some {s : State} {r : Reading} (h : s.reading? = some r) :
    s.rdValid = true ∧ r = ⟨s.rdCount.toNat, s.rdCh.toList.take s.rdCount.toNat⟩ := by
  unfold State.reading? at h
  split at h
  case isTrue hv => exact ⟨hv, (Option.some.inj h).symm⟩
  case isFalse => cases h

/-- Settles O26: the step keeps the invariant, which bounds the channels of a Reading that is shown. -/
theorem channelValuesAreDataBytes : Obligations.ChannelValuesAreDataBytes := by
  intro s t r h hstep hr
  obtain ⟨hv, rfl⟩ := reading?_eq_some hr
  exact ((stepKeepsTheInvariant s t h hstep).validChannels hv).2

end Sys2Proof.Machine
end

section
/-! Frames fed back to back (30_encoding.md R58), read from the source's algorithm that the registers refine. -/

namespace Sys2Proof.Machine

theorem SourceSync.readings_cons (b : Byte) (bs : List Byte) (r : SourceSync) :
    SourceSync.readings (b :: bs) r = (r.onByte b).2.toList ++ SourceSync.readings bs (r.onByte b).1 := rfl

/-- A SYNC byte hands out no Reading, and declares its length. -/
theorem SourceSync.readings_syncByte (L : Nibble) (bs : List Byte) (r : SourceSync) :
    SourceSync.readings (syncByte L :: bs) r = SourceSync.readings bs ⟨(L.toNat : Int) - 1, []⟩ := by
  have hsync := highNibble_syncByte L
  have hdeclared : ((syncByte L).toNat : Int) - 0xF0 - 1 = (L.toNat : Int) - 1 := by
    rw [← declaredLength_toInt_lowNibble hsync, lowNibble_syncByte, declaredLength_toInt]
  rw [readings_cons, onByte_sync hsync, hdeclared]
  rfl

/-- The DATA bytes that a frame still lacks complete it, and hand out its one Reading. -/
theorem SourceSync.readings_completing {ds : List Byte} (hds : ∀ d ∈ ds, isData d) (hne : ds ≠ []) (rest : List Byte)
    {declared : Nat} (received : List Byte) (hlen : received.length + ds.length = declared) :
    SourceSync.readings (ds ++ rest) ⟨declared, received⟩ =
      ⟨min (declared - 1) 6, ((received ++ ds).drop 1).take 6⟩ :: SourceSync.readings rest ⟨0, []⟩ := by
  induction ds generalizing received with
  | nil => exact absurd rfl hne
  | cons d ds ih =>
    obtain ⟨hd, hds⟩ := List.forall_mem_cons.1 hds
    rw [List.length_cons] at hlen
    have h0 : (declared : Int) ≠ 0 := by omega
    rw [List.cons_append, readings_cons]
    by_cases hlast : ds = []
    · subst hlast
      have hn : ((declared : Int) - 1).toNat = declared - 1 := by omega
      rw [onByte_completed hd h0 (by simp at hlen ⊢; omega), hn]
      rfl
    · have hmore := List.length_pos_iff.2 hlast
      rw [onByte_stored hd h0 (by simp only; omega)]
      simpa using ih hds hlast (received ++ [d]) (by simp; omega)

/-- The Reading of a frame: `L - 2` channels, six at most, the data bytes from the second on (30_encoding.md R58). -/
def frameReading (f : Nibble × List Byte) : Reading := ⟨min (f.1.toNat - 2) 6, (f.2.drop 1).take 6⟩

theorem SourceSync.readings_frame {f : Nibble × List Byte} (hf : IsFrame f) (rest : List Byte) (r : SourceSync) :
    SourceSync.readings (frameBytes f ++ rest) r = frameReading f :: SourceSync.readings rest ⟨0, []⟩ := by
  obtain ⟨hmin, hlen, hdata⟩ := hf
  have hne : f.2 ≠ [] := List.ne_nil_of_length_pos (by omega)
  have hdeclared : (f.1.toNat : Int) - 1 = (f.2.length : Nat) := by omega
  have hcount : f.2.length - 1 = f.1.toNat - 2 := by omega
  rw [frameBytes, List.cons_append, readings_syncByte, hdeclared,
    readings_completing hdata hne rest [] (Nat.zero_add _), hcount]
  rfl

theorem SourceSync.readings_frames {fs : List (Nibble × List Byte)} (hfs : ∀ f ∈ fs, IsFrame f) (r : SourceSync) :
    SourceSync.readings (fs.flatMap frameBytes) r = fs.map frameReading := by
  induction fs generalizing r with
  | nil => rfl
  | cons f fs ih =>
    obtain ⟨hf, hfs⟩ := List.forall_mem_cons.1 hfs
    rw [List.flatMap_cons, readings_frame hf, ih hfs, List.map_cons]

/-- A SYNC byte forgets the registers, so that from any attached state a stream that begins with one gives the
source's Readings, from any state of the source (40_frame_synchronizer.md R66, R74). -/
theorem observe_syncByte {s : State} (ha : s.link = .attached) (L : Nibble) (bs : List Byte) (r : SourceSync) :
    observe step (bs.length + 1) (s.withBytes (syncByte L :: bs)) =
      ⟨SourceSync.readings (syncByte L :: bs) r, .running⟩ := by
  have hsync := highNibble_syncByte L
  have hstart := (refines_startFrame ha hsync).observe_eq bs
  rw [observe_succ, step_withBytes, feed_sync _ hsync (s := s.withBytes bs) ha, settle_next, SourceSync.readings_cons,
    SourceSync.onByte_sync hsync]
  exact congrArg (Observation.after none) hstart

/-- Settles O33: the first byte of a list of frames is a SYNC byte, after which the registers refine the source's
algorithm, and that hands out one Reading a frame. -/
theorem eachFrameGivesOneReading : Obligations.EachFrameGivesOneReading := by
  intro s fs ha hfs
  cases fs with
  | nil => rfl
  | cons f fs =>
    refine Eq.trans (observe_syncByte ha f.1 (f.2 ++ fs.flatMap frameBytes) ⟨0, []⟩) ?_
    exact congrArg (Observation.mk · .running) (SourceSync.readings_frames hfs ⟨0, []⟩)

end Sys2Proof.Machine
end

section
/-! What one byte does, with its frame (40_frame_synchronizer.md R65 to R71): SYNC, and the four rows of DATA while no
frame is active, in a frame, and at its completion. -/

namespace Sys2Proof.Machine

open Config (Params)

theorem exec_sync (L : Nibble) {s : State} (ha : s.link = .attached) :
    exec (.sync L) s = .next ((startFrame L s).setValid false) := by
  show (feedSync L s).settle = _
  rw [feedSync, whenAttached_attached ha, settle_finishFeed]
  rfl

/-- Settles O7: the next state is the started frame, whose fields are those of `startFrame`. -/
theorem syncStartsFrame : Obligations.SyncStartsFrame := by
  intro L s ha
  have hphase : phaseOfLength (declaredLength L) = if declaredLength L ≠ 0#5 then .inFrame else .idle :=
    (ite_not ..).symm
  exact ⟨_, exec_sync L ha, rfl, rfl, hphase, rfl, rfl, rfl, rfl, rfl, fun _ => rfl, rfl, rfl, rfl⟩

/-- Settles O8: DISCARD writes RD_VALID alone. -/
theorem dataDiscardedWhileNoFrame : Obligations.DataDiscardedWhileNoFrame := by
  intro d s ha h0 i hi
  rw [exec_dataRow hi, feedData_discard _ d ha h0, settle_next]
  exact ⟨_, rfl, rfl, rfl, rfl, rfl, rfl, rfl, rfl, rfl, fun _ => rfl, rfl, rfl, rfl⟩

theorem storeIndex_eq_some_iff {cap : Nat} {s : State} {a : Nat} :
    storeIndex cap s = some a ↔ a = s.idx.toNat ∧ a < cap := by
  unfold storeIndex
  split <;> simp only [Option.some.injEq, reduceCtorEq, false_iff] <;> omega

theorem storeIndex_eq_none_iff {cap : Nat} {s : State} : storeIndex cap s = none ↔ cap ≤ s.idx.toNat := by
  unfold storeIndex
  split <;> simp only [reduceCtorEq, false_iff, true_iff] <;> omega

/-- An accepted byte is in the cell that `storeIndex` gives, and every other cell reads as before (20_memory.md R32). -/
theorem cell_accumulate_of_stored (p : Params) (b : Byte) {s : State} {a : Nat} (h : storeIndex p.bufCap s = some a) :
    a = s.idx.toNat ∧ a < p.bufCap ∧ (accumulate p b s).cell a = b ∧
      ∀ x, x ≠ a → (accumulate p b s).cell x = s.cell x := by
  obtain ⟨rfl, hcap⟩ := storeIndex_eq_some_iff.1 h
  refine ⟨rfl, hcap, ?_, fun x hx => ?_⟩
  · rw [cell_accumulate, if_pos ⟨rfl, hcap⟩]
  · rw [cell_accumulate, if_neg fun hc => hx hc.1]

/-- A byte past the last cell is dropped, and every cell reads as before (20_memory.md R32). -/
theorem cell_accumulate_of_dropped (p : Params) (b : Byte) {s : State} (h : storeIndex p.bufCap s = none) :
    p.bufCap ≤ s.idx.toNat ∧ ∀ x, (accumulate p b s).cell x = s.cell x := by
  have hcap := storeIndex_eq_none_iff.1 h
  refine ⟨hcap, fun x => ?_⟩
  rw [cell_accumulate, if_neg (by omega)]

theorem exec_dataRow_inFrame {d : Byte} {i : Instr} (hi : i ∈ [Instr.data0 d, .data10 d, .data110 d, .data1110 d])
    {s : State} (ha : s.link = .attached) (hr : s.frameReachable) :
    exec i s = (dataInFrame Config.params d s).settle := by
  rw [exec_dataRow hi, feedData_inFrame _ d ha hr]

/-- The cursor, 15 at most, never comes to the pattern of a declared length of -1 (30_encoding.md R55). -/
theorem cursor_ne_of_len_neg_one {s : State} (h31 : s.len = 31#5) : min (s.idx.toNat + 1) 15 ≠ s.len.toNat := by
  simp only [h31, BitVec.toNat_ofNat]
  omega

/-- Settles O9: short of the declared length the byte is accumulated, and RD_VALID cleared. -/
theorem dataStoredInFrame : Obligations.DataStoredInFrame := by
  intro d s ha h0 hopen i hi
  have hr : s.frameReachable := ⟨h0, hopen.imp_right fun ⟨hmax, hlt⟩ => ⟨hmax, by omega⟩⟩
  have hc : min (s.idx.toNat + 1) 15 ≠ s.len.toNat := by
    rcases hopen with h31 | ⟨hmax, hlt⟩
    · exact cursor_ne_of_len_neg_one h31
    · omega
  rw [exec_dataRow_inFrame hi ha hr, dataInFrame_open _ d hc, settle_next]
  exact ⟨_, rfl, rfl, fun _ => cell_accumulate_of_stored _ d, cell_accumulate_of_dropped _ d,
    rfl, rfl, rfl, rfl, rfl, rfl, rfl, rfl, rfl⟩

/-- The Reading of the frame that the byte `d` completes: the channels are the cells 1 to n, with `d` at the cursor
(41_frame_decoder.md R81, R82). -/
def completedReading (d : Byte) (s : State) : Reading :=
  ⟨min (s.len.toNat - 1) 6,
    (List.range' 1 (min (s.len.toNat - 1) 6)).map fun k => if k = s.idx.toNat then d else s.cell k⟩

theorem decodeFrame_accumulate (d : Byte) {s : State} (hc : min (s.idx.toNat + 1) 15 = s.len.toNat) :
    decodeFrame (accumulate Config.params d s) = completedReading d s := by
  have hcur : (accumulate Config.params d s).idx.toNat = (accumulate Config.params d s).len.toNat := by
    rw [accumulate_idx, incrIdx_toNat, accumulate_len, hc]
  rw [decodeFrame_of_complete hcur, accumulate_len]
  refine congrArg (Reading.mk _) (List.map_congr_left fun k hk => ?_)
  have hk := List.mem_range'_1.1 hk
  have hcap : k < Config.params.bufCap := show k < 8 by omega
  simp only [cell_accumulate, hcap, and_true]

theorem completedReading_n (d : Byte) (s : State) : (completedReading d s).n = min (s.len.toNat - 1) 6 := rfl

/-- Channel `k` of the Reading, for `k` in 1..n. -/
theorem completedReading_channel (d : Byte) (s : State) {k : Nat} (h1 : 1 ≤ k) (hn : k ≤ min (s.len.toNat - 1) 6) :
    (completedReading d s).ch[k - 1]? = some (if k = s.idx.toNat then d else s.cell k) := by
  have hk : 1 + (k - 1) = k := by omega
  rw [completedReading, List.getElem?_map, List.getElem?_range' (by omega), Nat.one_mul, hk, Option.map_some]

/-- Settles O10: the byte is accumulated, and the completion loads the Reading that DECODE makes of the cells. -/
theorem dataCompletesFrame : Obligations.DataCompletesFrame := by
  intro d s ha h0 hmax hlast i hi
  have hr : s.frameReachable := ⟨h0, .inr ⟨hmax, by omega⟩⟩
  have hc : min (s.idx.toNat + 1) 15 = s.len.toNat := by omega
  have hcount : (BitVec.ofNat 3 (completedReading d s).n).toNat = min (s.len.toNat - 1) 6 := by
    rw [BitVec.toNat_ofNat, completedReading_n]
    omega
  have hchannel : ∀ k, 1 ≤ k → k ≤ min (s.len.toNat - 1) 6 →
      (loadChannels (completedReading d s) s.free).get? k = some (if k = s.idx.toNat then d else s.cell k) := by
    intro k h1 hn
    rw [loadChannels_get? _ _ h1 (by omega), completedReading_channel d s h1 hn, Option.getD_some]
  have hreading : ((completeFrame (completedReading d s) (accumulate Config.params d s)).setValid true).reading? =
      some (completedReading d s) :=
    reading?_completeFrame (by simp [completedReading]) (Nat.min_le_right _ _) _
  rw [exec_dataRow_inFrame hi ha hr, dataInFrame_complete _ d hc, settle_next, decodeFrame_accumulate d hc]
  exact ⟨_, rfl, rfl, rfl, rfl, rfl, hcount, hchannel, hreading, fun _ => cell_accumulate_of_stored _ d,
    cell_accumulate_of_dropped _ d, rfl, rfl⟩

end Sys2Proof.Machine
end

section
/-! The step by instructions is the spec's FEED dispatch on the byte (40_frame_synchronizer.md R65), and a BUF_CAP
outside 7..15 is refused (00_scope.md R7). -/

namespace Sys2Proof.Machine

open Config (Params)

theorem step_eq_stepWith (s : State) : step s = stepWith Config.params s := by
  rw [stepWith_of_wellFormed params_wellFormed]
  unfold step
  rcases s.takeEdge with ⟨c, t⟩
  match c with
  | none | some .attach | some .detach => rfl
  | some (.feed b) => exact exec_decodeByte b t

theorem params_illFormed {n : Nat} (h : n < 7 ∨ 15 < n) : (Params.mk n).wellFormed = false := by
  simp only [Params.wellFormed, Bool.and_eq_false_iff, decide_eq_false_iff_not]
  omega

theorem transact_of_illFormed {p : Params} (h : p.wellFormed = false) (c : Cmd) (s : State) :
    transact p c s = .refused .bufCapOutOfRange := whenAccepted_of_illFormed h _

/-- Settles O18: the decoded byte means FEED of the byte, and one check refuses the capacity in both forms. -/
theorem stepIsTheFeedDispatch : Obligations.StepIsTheFeedDispatch := by
  refine ⟨step_eq_stepWith, fun n s h => whenAccepted_of_illFormed (params_illFormed h) _,
    fun n c s h => transact_of_illFormed (params_illFormed h) c s, fun n c cs s h => ?_⟩
  rw [observeCmds, transact_of_illFormed (params_illFormed h)]

end Sys2Proof.Machine
end

section
/-! Streams after a SYNC byte (40_frame_synchronizer.md R66, R73, R74, R78, R79): what came before is forgotten, and
a frame that lacks bytes, or can never complete, gives no Reading. -/

namespace Sys2Proof.Machine

/-- After an ATTACH no frame is active, whatever came before. -/
theorem sameView_attach {s t : State} (input : s.input = t.input) : SameView (attach s) (attach t) :=
  sameView_of_len_eq_zero input rfl rfl rfl rfl rfl

/-- Settles O37: after a SYNC byte the Readings are those of the source's algorithm from any state of it; after an
ATTACH the states have one view. -/
theorem syncAndAttachForgetThePast : Obligations.SyncAndAttachForgetThePast := by
  constructor
  · intro s t L bs hs ht
    rw [observe_syncByte hs L bs ⟨0, []⟩, observe_syncByte ht L bs ⟨0, []⟩]
  · intro s t e es he
    have hview : SameView (attach (s.withInput es)) (attach (t.withInput es)) := sameView_attach rfl
    rw [observe_succ, observe_succ, step_attach s he, step_attach t he]
    simp only [unobservableStateStaysUnobservable _ _ es.length hview, hview.reading]

/-- DATA bytes that do not complete the frame hand out no Reading: none is active, it has the declared length -1, or it
lacks more bytes than these. -/
theorem SourceSync.readings_incomplete {ds : List Byte} (hds : ∀ d ∈ ds, isData d) (rest : List Byte)
    {declared : Int} (received : List Byte)
    (hopen : declared ≤ 0 ∨ ((received.length + ds.length : Nat) : Int) < declared) :
    ∃ received', SourceSync.readings (ds ++ rest) ⟨declared, received⟩ =
      SourceSync.readings rest ⟨declared, received'⟩ := by
  induction ds generalizing received with
  | nil => exact ⟨received, rfl⟩
  | cons d ds ih =>
    obtain ⟨hd, hds⟩ := List.forall_mem_cons.1 hds
    rw [List.length_cons] at hopen
    rw [List.cons_append, readings_cons]
    by_cases h0 : declared = 0
    · rw [onByte_discarded hd h0]
      exact ih hds received (.inl h0.le)
    · rw [onByte_stored hd h0 (by simp only; omega)]
      exact ih hds (received ++ [d]) (by simp only [List.length_append, List.length_singleton]; omega)

/-- A SYNC byte and DATA bytes that do not complete its frame leave the Readings to the rest of the stream. -/
theorem SourceSync.readings_syncByte_incomplete {L : Nibble} {ds : List Byte} (hds : ∀ d ∈ ds, isData d)
    (hopen : L.toNat ≤ 1 ∨ ds.length + 1 < L.toNat) (rest : List Byte) (r : SourceSync) :
    ∃ r', SourceSync.readings (syncByte L :: ds ++ rest) r = SourceSync.readings rest r' := by
  obtain ⟨received, h⟩ := readings_incomplete hds rest (declared := (L.toNat : Int) - 1) []
    (by rw [List.length_nil]; omega)
  exact ⟨_, by rw [List.cons_append, readings_syncByte, h]⟩

theorem run_withBytes_syncByte {s : State} (ha : s.link = .attached) (L : Nibble) (bs : List Byte) (k : Nat) :
    Host.Core.run Sys2Proof.core (k + 1) (s.withBytes (syncByte L :: bs)) =
      Host.Core.run Sys2Proof.core k (((startFrame L s).setValid false).withBytes bs) := by
  refine run_next ?_
  rw [step_withBytes, feed_sync _ (highNibble_syncByte L) (s := s.withBytes bs) ha, settle_next, lowNibble_syncByte]
  rfl

/-- From a state that refines the source's, a run takes every byte, and is attached after it. -/
theorem Refines.run_withBytes_append (bs rest : List Byte) (k : Nat) {s : State} {r : SourceSync} (h : Refines s r) :
    ∃ t : State, t.link = .attached ∧ Host.Core.run Sys2Proof.core (bs.length + k) (s.withBytes (bs ++ rest)) =
      Host.Core.run Sys2Proof.core k (t.withBytes rest) := by
  induction bs generalizing s r with
  | nil => exact ⟨s, h.attached, by rw [List.length_nil, Nat.zero_add, List.nil_append]⟩
  | cons b bs ih =>
    obtain ⟨t, hstep, -, hrefines⟩ := h.step b (bs ++ rest)
    obtain ⟨u, hu, hrun⟩ := ih hrefines
    exact ⟨u, hu, by rw [List.length_cons, Nat.add_right_comm, List.cons_append, run_next hstep, hrun]⟩

/-- A SYNC byte starts a frame, of which the source has received no byte. -/
theorem refines_startFrame_syncByte {s : State} (ha : s.link = .attached) (L : Nibble) :
    ∃ r, Refines ((startFrame L s).setValid false) r := by
  have hstart := refines_startFrame ha (highNibble_syncByte L)
  rw [lowNibble_syncByte] at hstart
  exact ⟨_, hstart⟩

/-- Settles O34: the source's algorithm lacks a byte when the second SYNC byte comes, and that starts its frame from
whatever attached state the run has reached. -/
theorem truncatedFrameGivesNoReading : Obligations.TruncatedFrameGivesNoReading := by
  intro s L M ds ha hds hshort
  constructor
  · obtain ⟨r, hreadings⟩ := SourceSync.readings_syncByte_incomplete hds (.inr hshort) [syncByte M] ⟨0, []⟩
    have hobs := observe_syncByte ha L (ds ++ [syncByte M]) ⟨0, []⟩
    rw [← List.cons_append, hreadings, SourceSync.readings_syncByte, List.length_append] at hobs
    exact hobs
  · obtain ⟨r, hstart⟩ := refines_startFrame_syncByte ha L
    obtain ⟨t, ht, hrun⟩ := hstart.run_withBytes_append ds [syncByte M] 1
    refine ⟨((startFrame M t).setValid false).withBytes [], ?_, rfl, rfl, rfl⟩
    rw [List.cons_append, run_withBytes_syncByte ha, hrun, run_withBytes_syncByte ht]
    rfl

/-- While no frame is active a run over DATA bytes keeps the frame registers and BUF (40_frame_synchronizer.md R68). -/
theorem run_noFrame {ds : List Byte} (hds : ∀ d ∈ ds, isData d) {s : State} (ha : s.link = .attached)
    (h0 : s.len = 0#5) :
    ∃ t, Host.Core.run Sys2Proof.core ds.length (s.withBytes ds) = .next t ∧
      t.link = .attached ∧ t.len = 0#5 ∧ t.idx = s.idx ∧ t.phase = s.phase ∧ t.buf = s.buf := by
  induction ds generalizing s with
  | nil => exact ⟨_, rfl, ha, h0, rfl, rfl, rfl⟩
  | cons d ds ih =>
    obtain ⟨hd, hds⟩ := List.forall_mem_cons.1 hds
    have hstep : step (s.withBytes (d :: ds)) = .next ((s.setValid false).withBytes ds) := by
      rw [step_withBytes, feed_discard _ hd (s := s.withBytes ds) ha h0, settle_next]
      rfl
    rw [List.length_cons, run_next hstep]
    exact ih hds ha h0

/-- In a frame of declared length -1 a run over DATA bytes counts them, up to 15, and never leaves the frame
(40_frame_synchronizer.md R78). -/
theorem run_neverCompleting {ds : List Byte} (hds : ∀ d ∈ ds, isData d) {s : State} (ha : s.link = .attached)
    (h31 : s.len = 31#5) :
    ∃ t, Host.Core.run Sys2Proof.core ds.length (s.withBytes ds) = .next t ∧
      t.len = 31#5 ∧ t.phase = s.phase ∧ t.idx.toNat = min (s.idx.toNat + ds.length) 15 := by
  induction ds generalizing s with
  | nil =>
    have hidx : s.idx.toNat = min (s.idx.toNat + ([] : List Byte).length) 15 := by
      rw [List.length_nil]
      omega
    exact ⟨_, rfl, h31, rfl, hidx⟩
  | cons d ds ih =>
    obtain ⟨hd, hds⟩ := List.forall_mem_cons.1 hds
    have hr : s.frameReachable := ⟨by rw [h31]; decide, .inl h31⟩
    have hstep : step (s.withBytes (d :: ds)) =
        .next (((accumulate Config.params d s).setValid false).withBytes ds) := by
      rw [step_withBytes, feed_data _ hd, feedData_inFrame _ d (s := s.withBytes ds) ha hr,
        dataInFrame_open _ d (s := s.withBytes ds) (cursor_ne_of_len_neg_one h31), settle_next]
      rfl
    obtain ⟨t, hrun, hlen, hphase, hidx⟩ := ih hds (s := (accumulate Config.params d s).setValid false) ha h31
    rw [List.length_cons, run_next hstep]
    refine ⟨t, hrun, hlen, hphase, ?_⟩
    rw [hidx, setValid_idx, accumulate_idx, incrIdx_toNat]
    omega

/-- Settles O36: the source's frame of declared length -1 or 0 is never completed; in the registers the first counts its
bytes and the second discards them. -/
theorem lengthZeroAndOneGiveNoReading : Obligations.LengthZeroAndOneGiveNoReading := by
  intro s L ds ha hL hds
  constructor
  · obtain ⟨r, hreadings⟩ := SourceSync.readings_syncByte_incomplete hds (.inl hL) [] ⟨0, []⟩
    rw [List.append_nil] at hreadings
    rw [observe_syncByte ha L ds ⟨0, []⟩, hreadings]
    rfl
  · rw [run_withBytes_syncByte ha]
    obtain rfl | rfl : L = 0#4 ∨ L = 1#4 := by
      simp only [← BitVec.toNat_inj, BitVec.toNat_ofNat]
      omega
    · obtain ⟨t, hrun, hlen, hphase, hidx⟩ :=
        run_neverCompleting hds (s := (startFrame 0#4 s).setValid false) ha rfl
      refine ⟨t, hrun, fun _ => ⟨hlen, hphase, ?_⟩, fun h => absurd h (by decide)⟩
      rw [hidx, setValid_idx, startFrame_idx, BitVec.toNat_ofNat, Nat.zero_mod, Nat.zero_add]
    · obtain ⟨t, hrun, -, hlen, hidx, hphase, -⟩ :=
        run_noFrame hds (s := (startFrame 1#4 s).setValid false) ha rfl
      exact ⟨t, hrun, fun h => absurd h (by decide), fun _ => ⟨hlen, hphase, hidx⟩⟩

end Sys2Proof.Machine
end

section
/-! The transaction form (42_link_interface.md R92, R93): what a command hands out is on the output registers, and idle
edges change nothing that a later command can tell. -/

namespace Sys2Proof.Machine

open Config (Params)

/-- The transitions of a command: the next state, and the Reading handed out. -/
inductive TransactNext (p : Params) (s : State) : Cmd → State → Option Reading → Prop where
  | attach : TransactNext p s .attach (attach s) none
  | detach : TransactNext p s .detach (detach s) none
  | feed {b : Byte} {t : State} {out : Option Reading} (hf : FeedNext p b s t out) : TransactNext p s (.feed b) t out

theorem transact_eq_next {p : Params} {c : Cmd} {s t : State} {out : Option Reading}
    (h : transact p c s = .next (t, out)) : TransactNext p s c t out := by
  rcases transact_cases p c s with ⟨-, hr⟩ | ⟨-, ⟨rfl, hr⟩ | ⟨rfl, hr⟩ | ⟨b, rfl, hr⟩⟩ <;> rw [hr] at h
  · cases h
  · cases h; exact .attach
  · cases h; exact .detach
  · exact .feed (feed_eq_next h).2

theorem TransactNext.reading?_eq {p : Params} {s t : State} {c : Cmd} {out : Option Reading}
    (h : TransactNext p s c t out) : t.reading? = out := by
  cases h with
  | attach => exact reading?_attach s
  | detach => exact reading?_detach s
  | feed hf => exact hf.reading?_eq

/-- A Reading that is handed out has its count of channels, six at most (41_frame_decoder.md R81). -/
theorem TransactNext.reading_length {p : Params} {s t : State} {c : Cmd} {r : Reading}
    (h : TransactNext p s c t (some r)) : r.ch.length = r.n ∧ r.n ≤ Config.MAX_CH := by
  cases h with
  | feed hf => cases hf with
    | completed => exact decodeFrame_length _

theorem isSome_reading? (s : State) : s.reading?.isSome = s.rdValid := by
  cases h : s.rdValid <;> simp [State.reading?, h]

/-- Settles O25: ATTACH and DETACH hand out and show no Reading, and a completion loads the output registers with the
one it hands out. -/
theorem emittedReadingIsOnTheOutputRegisters : Obligations.EmittedReadingIsOnTheOutputRegisters := by
  intro p c s t out h
  have hnext := transact_eq_next h
  have hread := hnext.reading?_eq
  refine ⟨hread, by rw [← hread, isSome_reading?], ?_⟩
  rintro r rfl
  obtain ⟨-, hr⟩ := reading?_eq_some hread
  exact ⟨congrArg Reading.n hr, hnext.reading_length⟩

/-- The result with the given samples as all that the input ports will bring. -/
def FeedResult.withInput (es : List Pins) : FeedResult → FeedResult
  | .next (t, out) => .next (t.withInput es, out)
  | .fault r => .fault r
  | .refused r => .refused r

/-- What a command does depends neither on the ports' further samples nor on RD_VALID, and keeps the samples. -/
theorem transact_withInput_setValid (p : Params) (c : Cmd) (s : State) (es : List Pins) (v : Bool) :
    transact p c ((s.withInput es).setValid v) = (transact p c s).withInput es := by
  cases hp : p.wellFormed with
  | false =>
    rw [transact_of_illFormed hp, transact_of_illFormed hp]
    rfl
  | true =>
    rw [transact_of_wellFormed hp, transact_of_wellFormed hp]
    cases c with
    | attach => rfl
    | detach =>
      have hdetach : detach ((s.withInput es).setValid v) = (detach s).withInput es := by
        rw [detach, detach, setValid_link, withInput_link]
        cases s.link <;> rfl
      simp only [hdetach, FeedResult.withInput]
    | feed b =>
      simp only [feed_withInput_setValid]
      cases feed p b s <;> rfl

theorem transact_withInput (p : Params) (c : Cmd) (s : State) (es : List Pins) :
    transact p c (s.withInput es) = (transact p c s).withInput es :=
  transact_withInput_setValid p c s es s.rdValid

/-- The transaction form observes neither the samples of the ports nor the RD_VALID of the state it starts from. -/
theorem observeCmds_withInput_setValid (p : Params) (cs : List Cmd) (s : State) (es : List Pins) (v : Bool) :
    observeCmds p cs ((s.withInput es).setValid v) = observeCmds p cs s := by
  induction cs generalizing s v with
  | nil => rfl
  | cons c cs ih =>
    rw [observeCmds, observeCmds, transact_withInput_setValid]
    cases transact p c s with
    | next x => exact congrArg (Observation.after x.2) (ih x.1 x.1.rdValid)
    | fault r => rfl
    | refused r => rfl

theorem observeCmds_setValid (p : Params) (cs : List Cmd) (s : State) (v : Bool) :
    observeCmds p cs (s.setValid v) = observeCmds p cs s := observeCmds_withInput_setValid p cs s s.input v

/-- A step at an edge with a command is the transaction of it (42_link_interface.md R97). -/
theorem step_command {e : Pins} {c : Cmd} (h : e.command = some c) (s : State) (es : List Pins) :
    step (s.withInput (e :: es)) = (transact Config.params c (s.withInput es)).settle := by
  rw [step_eq_stepWith, stepWith_of_wellFormed params_wellFormed, takeEdge_cons, h]

/-- Settles O31, by induction on the samples: an idle edge clears RD_VALID, which no later command reads, and an edge
with a command is its transaction, whose Reading the registers show. -/
theorem idleCyclesAreUnobservable : Obligations.IdleCyclesAreUnobservable := by
  intro es
  induction es with
  | nil => exact fun _ => rfl
  | cons e es ih =>
    intro s
    rw [List.length_cons, observe_succ]
    cases hc : e.command with
    | none =>
      rw [step_idle s hc, List.filterMap_cons_none hc, ← observeCmds_setValid _ _ s false]
      exact congrArg (Observation.after none) (ih (s.setValid false))
    | some c =>
      rw [List.filterMap_cons_some hc, observeCmds, step_command hc, transact_withInput]
      cases htransact : transact Config.params c s with
      | next x =>
        obtain ⟨t, out⟩ := x
        have hread : (t.withInput es).reading? = out := (transact_eq_next htransact).reading?_eq
        simp only [FeedResult.withInput, settle_next, ih t, hread]
      | fault r => rfl
      | refused r => rfl

end Sys2Proof.Machine
end

section
/-! The commands of an edge (42_link_interface.md R90, R91, R94, R95, R97, R98): their priority at the ports, and what
each does. -/

namespace Sys2Proof.Machine

/-- A byte fed while detached is refused, whatever its row (42_link_interface.md R95). -/
theorem exec_detached (i : Instr) {s : State} (hd : s.link = .detached) : exec i s = .refused .feedWhileDetached := by
  cases i with
  | sync L =>
    show (feedSync L s).settle = _
    rw [feedSync, whenAttached_detached hd]
    rfl
  | data0 d | data10 d | data110 d | data1110 d =>
    rw [exec_dataRow (d := d) (by simp), feedData, whenAttached_detached hd]
    rfl

/-- A step whose next edge feeds a byte runs the instruction that the byte decodes to. -/
theorem step_of_takeEdge_feed {s t : State} {b : Byte} (h : s.takeEdge = (some (.feed b), t)) :
    step s = exec (decodeByte b) t := by
  rw [step, h]

/-- Settles O12: the first step of the run is the refused instruction, and a refused run is over. -/
theorem detachedByteRefusedForGood : Obligations.DetachedByteRefusedForGood := by
  refine ⟨fun i s => exec_detached i, fun b k s hd hfeed => run_refused ?_⟩
  rw [step_of_takeEdge_feed (Prod.ext hfeed (takeEdge_state s))]
  exact exec_detached _ hd

/-! ## The priority of the ports -/

section
variable {e : Pins}

theorem command_of_rst (hrst : e.rst = true) : e.command = some .attach := if_pos hrst

theorem command_of_det (hrst : e.rst = false) (hdet : e.det = true) : e.command = some .detach := by
  simp [Pins.command, hrst, hdet]

theorem command_of_inValid (hrst : e.rst = false) (hdet : e.det = false) (hvalid : e.inValid = true) :
    e.command = some (.feed e.inByte) := by
  simp [Pins.command, hrst, hdet, hvalid]

theorem command_of_low (hrst : e.rst = false) (hdet : e.det = false) (hvalid : e.inValid = false) :
    e.command = none := by
  simp [Pins.command, hrst, hdet, hvalid]

end

/-! ## The step of each command, from a state with the sample listed -/

section
variable {s : State} {e : Pins} {rest : List Pins}

theorem takeEdge_of_input (h : s.input = e :: rest) : s.takeEdge = (e.command, s.withInput rest) := by
  rw [← withInput_input_self s, h, takeEdge_cons, withInput_withInput]

theorem step_of_command_attach (h : s.input = e :: rest) (hc : e.command = some .attach) :
    step s = .next (attach (s.withInput rest)) := by
  rw [step, takeEdge_of_input h, hc]

theorem step_of_command_detach (h : s.input = e :: rest) (hc : e.command = some .detach) :
    step s = .next (detach (s.withInput rest)) := by
  rw [step, takeEdge_of_input h, hc]

theorem step_of_command_feed {b : Byte} (h : s.input = e :: rest) (hc : e.command = some (.feed b)) :
    step s = exec (decodeByte b) (s.withInput rest) :=
  step_of_takeEdge_feed (by rw [takeEdge_of_input h, hc])

theorem step_of_command_none (h : s.input = e :: rest) (hc : e.command = none) :
    step s = .next ((s.withInput rest).setValid false) := by
  rw [step, takeEdge_of_input h, hc]
  rfl

end

theorem step_of_no_sample {s : State} (h : s.input = []) : step s = .next (s.setValid false) := by
  rw [step, State.takeEdge, h]
  rfl

/-- A word of eight bits is its byte. -/
theorem tableByte_eight (w : Nat) : tableByte 8 w = BitVec.ofNat 8 w :=
  BitVec.eq_of_toNat_eq (by simp [tableByte])

/-- Settles O13: the byte of the next sample is decoded, and a placed word is such a sample. -/
theorem stepRunsTheDecodedByte : Obligations.StepRunsTheDecodedByte := by
  constructor
  · intro s b rest i hin hdecode
    cases hdecode
    exact step_of_command_feed hin rfl
  · intro s w
    have hin : (s.withFetchWord 8 w).input = Pins.feed (tableByte 8 w) :: s.input := rfl
    rw [step_of_command_feed hin (command_feed _), tableByte_eight]
    rfl

/-- Settles O14: each clause is the step of the command that the priority of the ports gives. -/
theorem portPriorityIsRstDetByte : Obligations.PortPriorityIsRstDetByte := by
  intro s e rest
  refine ⟨fun hin hrst => ?_, fun hin hrst hdet => ?_, fun hin hrst hdet hvalid => ?_,
    fun hin hrst hdet hvalid => ?_, fun hin => ?_⟩
  · exact step_of_command_attach hin (command_of_rst hrst)
  · exact step_of_command_detach hin (command_of_det hrst hdet)
  · exact step_of_command_feed hin (command_of_inValid hrst hdet hvalid)
  · exact ⟨_, step_of_command_none hin (command_of_low hrst hdet hvalid),
      rfl, rfl, rfl, rfl, rfl, rfl, rfl, rfl, rfl, rfl, rfl⟩
  · exact ⟨_, step_of_no_sample hin, rfl, rfl, hin, rfl, rfl, rfl, rfl, rfl, rfl, rfl, rfl⟩

/-- Settles O15: ATTACH writes the reset values, and leaves BUF. -/
theorem attachGivesTheResetState : Obligations.AttachGivesTheResetState := by
  intro s e rest hin hrst
  exact ⟨_, step_of_command_attach hin (command_of_rst hrst), rfl, rfl, rfl, rfl, rfl, rfl, fun _ => rfl, rfl, rfl,
    rfl, rfl, rfl, rfl, rfl⟩

theorem detach_of_detached {s : State} (hd : s.link = .detached) : detach s = s.setValid false := by
  rw [detach, hd]

/-- Settles O16: DETACH while attached releases the link, and while detached it clears RD_VALID alone. -/
theorem detachReleasesTheLink : Obligations.DetachReleasesTheLink := by
  intro s e rest hin hrst hdet
  refine ⟨_, step_of_command_detach hin (command_of_det hrst hdet), detach_link _, detach_rdValid _,
    reading?_detach _, detach_input _, cell_congr (detach_buf _), detach_buf _, fun hd => ?_⟩
  rw [detach_of_detached (s := s.withInput rest) hd]
  exact ⟨rfl, rfl, rfl, rfl, rfl, rfl⟩

end Sys2Proof.Machine
end

section
/-! A gap in the samples (60_exceptions.md R109, R113): each idle edge takes its sample and clears RD_VALID
(42_link_interface.md R97), so that no edge after the first changes a register. -/

namespace Sys2Proof.Machine

/-- One idle edge of a run: the sample is taken, and RD_VALID is cleared. -/
theorem run_idle (s : State) {e : Pins} (h : e.command = none) (es : List Pins) (k : Nat) :
    Host.Core.run Sys2Proof.core (k + 1) (s.withInput (e :: es)) =
      Host.Core.run Sys2Proof.core k ((s.setValid false).withInput es) :=
  run_next (step_idle s h es)

/-- While RD_VALID is 0, a gap of any length takes its samples and changes no register. -/
theorem run_gap_of_setValid_false (s : State) {es : List Pins} (hes : ∀ e ∈ es, e.command = none) (rest : List Pins) :
    Host.Core.run Sys2Proof.core es.length ((s.setValid false).withInput (es ++ rest)) =
      .next ((s.setValid false).withInput rest) := by
  induction es with
  | nil => rfl
  | cons e es ih =>
    obtain ⟨he, hes⟩ := List.forall_mem_cons.1 hes
    rw [List.length_cons, List.cons_append, run_idle _ he, setValid_setValid]
    exact ih hes

/-- Settles O32: the first idle edge of the gap clears RD_VALID, and the others change no register. -/
theorem gapKeepsTheFrameInProgress : Obligations.GapKeepsTheFrameInProgress := by
  intro es rest s hne hes
  cases es with
  | nil => exact absurd rfl hne
  | cons e es =>
    obtain ⟨he, hes⟩ := List.forall_mem_cons.1 hes
    have hrun : Host.Core.run Sys2Proof.core (es.length + 1) (s.withInput (e :: (es ++ rest))) =
        .next ((s.setValid false).withInput rest) := by
      rw [run_idle s he, run_gap_of_setValid_false s hes]
    exact ⟨_, hrun, rfl, rfl, rfl, rfl, rfl, rfl, rfl, rfl, rfl, rfl⟩

end Sys2Proof.Machine
end

section
/-! DATA bytes with no frame active (70_reset_and_hazards.md R123): the source's algorithm discards each, and so do the
registers (40_frame_synchronizer.md R68). -/

namespace Sys2Proof.Machine

/-- Settles O35: the source's declared length stays 0, so it completes no frame; in the registers LEN stays 0, so every
byte is discarded. -/
theorem noiseGivesNoReading : Obligations.NoiseGivesNoReading := by
  intro s ds ha h0 hds
  constructor
  · obtain ⟨received, hreadings⟩ := SourceSync.readings_incomplete hds [] (declared := 0) [] (.inl le_rfl)
    rw [List.append_nil] at hreadings
    rw [(refines_of_noFrame ha h0 []).observe_eq ds, hreadings]
    rfl
  · exact run_noFrame hds ha h0

end Sys2Proof.Machine
end
